-- ==== Sys2Proof/Word.lean ====
section
/-! DEFINITION. The word types of the block: bytes, symbols, level codes, durations, the command word and its
two fields. Bit 0 is the least significant bit of every one of them (spec/00_scope.md R9). -/

namespace Sys2Proof

/-- One byte of a frame or of a payload. -/
abbrev Byte := BitVec 8

/-- A symbol: a 2-bit unsigned value, all four values legal (spec/30_encoding.md R70). -/
abbrev Sym := BitVec 2

/-- The 3-bit code of a LightLevel; 5, 6 and 7 are reserved (spec/30_encoding.md R66). -/
abbrev LevelCode := BitVec 3

/-- A duration in microseconds, `W_DUR` = 32 bits (spec/00_scope.md R8). -/
abbrev Duration := BitVec 32

/-- A count of units, or the unit itself in microseconds, `W_UNIT` = 16 bits (spec/00_scope.md R8). -/
abbrev Units := BitVec 16

/-- One statistics counter, `W_CNT` = 32 bits (spec/00_scope.md R8). -/
abbrev Count := BitVec 32

/-- The callback's user context, `W_CTX` = 32 bits (spec/00_scope.md R8). -/
abbrev Context := BitVec 32

/-- The command word `cmd[183:0]` (spec/30_encoding.md R60). -/
abbrev CommandWord := BitVec 184

/-- The operand field `arg = cmd[175:0]` of a command word (spec/30_encoding.md R60). -/
abbrev ArgField := BitVec 176

end Sys2Proof
end

