-- ==== Sys2Proof/Syntax.lean ====
section
/-! DEFINITION. The fifteen operations of the block, one constructor each (spec/30_encoding.md R63), with the
values they carry: LightLevel, ProtocolConfig, SignalChange and the packet in which a command reaches the block. -/

namespace Sys2Proof

/-- LightLevel, "a closed set of five discrete values" (spec/10_state.md R34). -/
inductive LightLevel where
  | off
  | white
  | red
  | green
  | blue
  deriving DecidableEq, Repr

/-- ProtocolConfig, the record of twelve fields (spec/10_state.md R26). Every field holds whatever was written,
legal or not, so `preambleColor` is the raw 3-bit code: a reserved code is stored and read back
(spec/30_encoding.md R65 (c)). -/
structure ProtocolConfig where
  /-- idx 0, `U`: length of one unit in microseconds -/
  unitDurationMicros : Units
  /-- idx 1, `PM` -/
  preambleMarkUnits : Units
  /-- idx 2, `PS` -/
  preambleSpaceUnits : Units
  /-- idx 3, `SM` -/
  symbolMarkUnits : Units
  /-- idx 4, `SEP` -/
  separatorUnits : Units
  /-- idx 5, `GAP` -/
  frameGapUnits : Units
  /-- idx 6, `PC`: a LightLevel code -/
  preambleColor : LevelCode
  /-- idx 7, `DRIFT`: the drift fraction in thousandths (spec/42_config_tolerance.md R120) -/
  allowedDriftPermille : BitVec 16
  /-- idx 8, `MAXP` -/
  maxPayloadBytes : BitVec 16
  /-- idx 9, `MAGIC` -/
  magic : BitVec 16
  /-- idx 10, `ENDER` -/
  ender : BitVec 16
  /-- idx 11, `VER` -/
  version : BitVec 8
  deriving DecidableEq, Repr

/-- SignalChange: a level code and a duration in microseconds, 35 bits when packed (spec/30_encoding.md R67). -/
structure SignalChange where
  level : LevelCode
  duration : Duration
  deriving DecidableEq, Repr

/-- The operations, one constructor per row of spec/opcode_table.json (spec/30_encoding.md R63). Operands are the
fields of the operation's format (R61). A LightLevel operand is the raw code: a reserved code is a command the block
answers with `ILLEGAL` (R65 (b)). The payload of `ENC.ENCODE` is its `L` bytes, so `L` is the list's length. -/
inductive Instr where
  | crcInit
  | crcByte (byte : Byte)
  | crcRead
  | symEnc (sym : Sym)
  | symDec (level : LevelCode)
  | encConfigure (cfg : ProtocolConfig)
  | encValid
  | encEncode (payload : List Byte)
  | decConfigure (cfg : ProtocolConfig)
  | decValid
  | decFeed (level : LevelCode) (duration : Duration)
  | decReset
  | decStats
  | decConfig
  | decSetcb (en : Bool) (ctx : Context)
  deriving DecidableEq, Repr

/-- What the host presents for one operation: the 184-bit command word, and the byte sequence beside it, which only
`ENC.ENCODE` takes (spec/30_encoding.md R60). -/
structure Packet where
  word : CommandWord
  payload : List Byte
  deriving DecidableEq, Repr

end Sys2Proof
end

