-- ==== Sys2Proof/Config.lean ====
section
/-! DEFINITION. What this hardware fixes (spec/00_scope.md R8), the default configuration record
(spec/10_state.md R26), and the one value the spec leaves open. -/

namespace Sys2Proof.Config

/-- `MAX_PAYLOAD`: largest payload length in bytes (spec/00_scope.md R8). -/
def maxPayload : Nat := 512

/-- `FRAME_CAP`: capacity in bytes of each frame buffer, `MAX_PAYLOAD + 9` (spec/00_scope.md R8, spec/20_memory.md R41). -/
def frameCap : Nat := 521

/-- `MAX_SIGNAL_CHANGES`: capacity of the encoder's output buffer in entries (spec/00_scope.md R8). -/
def maxSignalChanges : Nat := 4200

/-- `DRIFT_DEN`: the drift fraction is a count of thousandths (spec/00_scope.md R8). -/
def driftDen : Nat := 1000

/-- The default ProtocolConfig (spec/10_state.md R26). `preambleColor` is White, code 1 (spec/30_encoding.md R66). -/
def defaults : ProtocolConfig where
  unitDurationMicros := 600
  preambleMarkUnits := 16
  preambleSpaceUnits := 8
  symbolMarkUnits := 1
  separatorUnits := 1
  frameGapUnits := 12
  preambleColor := 1
  allowedDriftPermille := 200
  maxPayloadBytes := 512
  magic := 0xC39A
  ender := 0x51AA
  version := 1

/-- FREE VALUE. The entry of a buffer at index `i` when `i` is at or beyond the buffer's length: "any value, never read
by any rule" (spec/93_implementation_defined.md U11, spec/20_memory.md R42). It has no body: nothing can be proved of
it. notes/assumptions/4.md. -/
opaque beyondLength : Nat → Byte

end Sys2Proof.Config
end

