-- ==== Sys2Proof/WellFormed.lean ====
section
/-! DEFINITION. Which terms of Instr are commands of the block. Every field but one has exactly the width its
encoding gives it, so that every value is a command; the payload of `ENC.ENCODE` is a list, and its length has to fit
the 16-bit field `L` (spec/30_encoding.md R61, format P; spec/20_memory.md R40, `L` ≤ 65535). -/

namespace Sys2Proof

/-- The instruction has an encoding: the payload of `ENC.ENCODE` has at most 65535 bytes. -/
def WellFormed : Instr → Bool
  | .crcInit => true
  | .crcByte _ => true
  | .crcRead => true
  | .symEnc _ => true
  | .symDec _ => true
  | .encConfigure _ => true
  | .encValid => true
  | .encEncode payload => decide (payload.length ≤ 65535)
  | .decConfigure _ => true
  | .decValid => true
  | .decFeed _ _ => true
  | .decReset => true
  | .decStats => true
  | .decConfig => true
  | .decSetcb _ _ => true

end Sys2Proof
end

