-- ==== Sys2Proof/Decode.lean ====
section
/-! DEFINITION. The command word read and written: the opcode map, the operand formats, the packed
ProtocolConfig, the decoder (total on any packet) and the encoder, all from spec/30_encoding.md R60 to R68. -/

namespace Sys2Proof

/-- The name of an operation without its operands, one for each row of spec/opcode_table.json. -/
inductive Op where
  | crcInit | crcByte | crcRead
  | symEnc | symDec
  | encConfigure | encValid | encEncode
  | decConfigure | decValid | decFeed | decReset | decStats | decConfig | decSetcb
  deriving DecidableEq, Repr

/-- The opcode map of spec/30_encoding.md R63. -/
def Op.code : Op → BitVec 8
  | .crcInit => 0x10
  | .crcByte => 0x11
  | .crcRead => 0x12
  | .symEnc => 0x20
  | .symDec => 0x21
  | .encConfigure => 0x30
  | .encValid => 0x31
  | .encEncode => 0x32
  | .decConfigure => 0x40
  | .decValid => 0x41
  | .decFeed => 0x42
  | .decReset => 0x43
  | .decStats => 0x44
  | .decConfig => 0x45
  | .decSetcb => 0x46

/-- The fifteen rows of spec/30_encoding.md R63, in the table's order. -/
def Op.all : List Op :=
  [.crcInit, .crcByte, .crcRead, .symEnc, .symDec, .encConfigure, .encValid, .encEncode,
   .decConfigure, .decValid, .decFeed, .decReset, .decStats, .decConfig, .decSetcb]

/-- The operation an opcode encodes; `none` for every value R63 does not list (spec/30_encoding.md R64). The opcode
is matched on all eight bits. -/
def Op.ofCode (op : BitVec 8) : Option Op :=
  Op.all.find? fun o => o.code == op

/-- `op = cmd[183:176]` (spec/30_encoding.md R60). -/
def opField (w : CommandWord) : BitVec 8 := w.extractLsb' 176 8

/-- `arg = cmd[175:0]` (spec/30_encoding.md R60). -/
def argField (w : CommandWord) : ArgField := w.extractLsb' 0 176

/-- Packed ProtocolConfig, read: the fields at the bits spec/30_encoding.md R68 gives them; bits [103:99] are ignored. -/
def unpackConfig (v : BitVec 176) : ProtocolConfig where
  unitDurationMicros := v.extractLsb' 0 16
  preambleMarkUnits := v.extractLsb' 16 16
  preambleSpaceUnits := v.extractLsb' 32 16
  symbolMarkUnits := v.extractLsb' 48 16
  separatorUnits := v.extractLsb' 64 16
  frameGapUnits := v.extractLsb' 80 16
  preambleColor := v.extractLsb' 96 3
  allowedDriftPermille := v.extractLsb' 104 16
  maxPayloadBytes := v.extractLsb' 120 16
  magic := v.extractLsb' 136 16
  ender := v.extractLsb' 152 16
  version := v.extractLsb' 168 8

/-- Packed ProtocolConfig, written, most significant field first; the reserved bits [103:99] are 0
(spec/30_encoding.md R68). -/
def packConfig (c : ProtocolConfig) : BitVec 176 :=
  c.version ++ c.ender ++ c.magic ++ c.maxPayloadBytes ++ c.allowedDriftPermille ++ (0 : BitVec 5)
    ++ c.preambleColor ++ c.frameGapUnits ++ c.separatorUnits ++ c.symbolMarkUnits
    ++ c.preambleSpaceUnits ++ c.preambleMarkUnits ++ c.unitDurationMicros

/-- Why a packet is no command of the block. -/
inductive DecodeError where
  /-- The opcode is not one of spec/30_encoding.md R63; the block answers `ILLEGAL` (R64). -/
  | undefinedOpcode (op : BitVec 8)
  /-- The byte sequence beside the word does not have the announced length, which "cannot be expressed at this level"
  (spec/30_encoding.md R65 (d)). -/
  | payloadMismatch (announced actual : Nat)
  deriving DecidableEq, Repr

/-- How many bytes stand beside the word: `L = arg[15:0]` for `ENC.ENCODE` (format P), none for every other operation
(spec/30_encoding.md R60, R61). -/
def announcedLength (op : Op) (arg : ArgField) : Nat :=
  match op with
  | .encEncode => (arg.extractLsb' 0 16).toNat
  | .crcInit | .crcByte | .crcRead | .symEnc | .symDec | .encConfigure | .encValid | .decConfigure | .decValid | .decFeed
  | .decReset | .decStats | .decConfig | .decSetcb => 0

/-- The operands of an operation, by its format; bits of `arg` the format does not name are ignored
(spec/30_encoding.md R61, R65 (a)). -/
def operands (op : Op) (arg : ArgField) (payload : List Byte) : Instr :=
  match op with
  | .crcInit => .crcInit
  | .crcByte => .crcByte (arg.extractLsb' 0 8)
  | .crcRead => .crcRead
  | .symEnc => .symEnc (arg.extractLsb' 0 2)
  | .symDec => .symDec (arg.extractLsb' 0 3)
  | .encConfigure => .encConfigure (unpackConfig arg)
  | .encValid => .encValid
  | .encEncode => .encEncode payload
  | .decConfigure => .decConfigure (unpackConfig arg)
  | .decValid => .decValid
  | .decFeed => .decFeed (arg.extractLsb' 32 3) (arg.extractLsb' 0 32)
  | .decReset => .decReset
  | .decStats => .decStats
  | .decConfig => .decConfig
  | .decSetcb => .decSetcb (arg.getLsbD 32) (arg.extractLsb' 0 32)

/-- The operation a packet encodes. The opcode is looked at first: an undefined one is rejected whatever stands beside
the word. -/
def decode (p : Packet) : Except DecodeError Instr :=
  match Op.ofCode (opField p.word) with
  | none => .error (.undefinedOpcode (opField p.word))
  | some op =>
    if p.payload.length = announcedLength op (argField p.word) then
      .ok (operands op (argField p.word) p.payload)
    else
      .error (.payloadMismatch (announcedLength op (argField p.word)) p.payload.length)

/-- The row of the opcode table an instruction belongs to. -/
def Instr.op : Instr → Op
  | .crcInit => .crcInit
  | .crcByte _ => .crcByte
  | .crcRead => .crcRead
  | .symEnc _ => .symEnc
  | .symDec _ => .symDec
  | .encConfigure _ => .encConfigure
  | .encValid => .encValid
  | .encEncode _ => .encEncode
  | .decConfigure _ => .decConfigure
  | .decValid => .decValid
  | .decFeed _ _ => .decFeed
  | .decReset => .decReset
  | .decStats => .decStats
  | .decConfig => .decConfig
  | .decSetcb _ _ => .decSetcb

/-- The operand field of an instruction, the bits its format does not name at 0 (spec/30_encoding.md R61, R65 (a)). -/
def encodeArg : Instr → ArgField
  | .crcInit => 0
  | .crcByte byte => byte.setWidth 176
  | .crcRead => 0
  | .symEnc sym => sym.setWidth 176
  | .symDec level => level.setWidth 176
  | .encConfigure cfg => packConfig cfg
  | .encValid => 0
  | .encEncode payload => (BitVec.ofNat 16 payload.length).setWidth 176
  | .decConfigure cfg => packConfig cfg
  | .decValid => 0
  | .decFeed level duration => (level ++ duration : BitVec 35).setWidth 176
  | .decReset => 0
  | .decStats => 0
  | .decConfig => 0
  | .decSetcb en ctx => (BitVec.ofBool en ++ ctx : BitVec 33).setWidth 176

/-- The bytes beside the command word (spec/30_encoding.md R60). -/
def encodePayload : Instr → List Byte
  | .encEncode payload => payload
  | .crcInit | .crcByte _ | .crcRead | .symEnc _ | .symDec _ | .encConfigure _ | .encValid | .decConfigure _ | .decValid
  | .decFeed _ _ | .decReset | .decStats | .decConfig | .decSetcb _ _ => []

/-- The packet of an instruction: the word `(op, arg)` and what stands beside it (spec/30_encoding.md R60). -/
def encode (i : Instr) : Packet where
  word := i.op.code ++ encodeArg i
  payload := encodePayload i

/-- Byte `k` of what follows the 184-bit word in a number that continues the word's bits upwards. -/
def payloadByteAt (w k : Nat) : Byte := BitVec.ofNat 8 (w >>> (184 + 8 * k))

/-- The packet whose command word is bits 183..0 of `w`, and which carries beside it as many bytes as that word announces,
byte `k` from bits 184 + 8k up: zero where the opcode table gives the row no bits. -/
def packetOfTableWord (w : Nat) : Packet :=
  let word : CommandWord := BitVec.ofNat 184 w
  let count := match Op.ofCode (opField word) with
    | some op => announcedLength op (argField word)
    | none => 0
  { word := word, payload := (List.range count).map (payloadByteAt w) }

/-- The instruction the decoder reads from an instruction whose bits are `w`, numbered as spec/opcode_table.json numbers
them (R63: `match` and `mask` on the whole 184-bit word). `w` has no bit at `nbits` or above, so `nbits` takes no part. -/
def decodeTableWord (_nbits w : Nat) : Option Instr :=
  (decode (packetOfTableWord w)).toOption

end Sys2Proof
end

