-- ==== Sys2Proof/Machine/State.lean ====
section
/-! DEFINITION. The state of the block (spec/10_state.md R20), its outputs (spec/30_encoding.md R62,
spec/60_exceptions.md R196), the reasons a step can stop, and the state after reset (spec/10_state.md R38). -/

namespace Sys2Proof.Machine

/-- `dec.state` (spec/10_state.md R24). -/
inductive DecState where
  | idle
  | waitSpace
  | readMark
  | readSpace
  deriving DecidableEq, Repr

/-- The nine DecoderStats counters by name, in the order of their indices, which are the cause codes
(spec/10_state.md R29, spec/60_exceptions.md R181). -/
inductive Counter where
  | framesDecoded
  | magicMismatches
  | headerRejects
  | lengthViolations
  | crcFailures
  | enderMismatches
  | durationRejections
  | markRejections
  | truncatedFrames
  deriving DecidableEq, Repr

/-- `dec.stats[0..8]` (spec/10_state.md R29). -/
structure Stats where
  framesDecoded : Count
  magicMismatches : Count
  headerRejects : Count
  lengthViolations : Count
  crcFailures : Count
  enderMismatches : Count
  durationRejections : Count
  markRejections : Count
  truncatedFrames : Count
  deriving DecidableEq, Repr

/-- The CRC generator (spec/10_state.md R21). -/
structure CrcUnit where
  /-- `crc.acc` -/
  acc : BitVec 16
  deriving DecidableEq, Repr

/-- The encoder (spec/10_state.md R20). A bounded buffer is the list of the entries it holds; its length is the list's
(spec/20_memory.md R42). -/
structure Encoder where
  /-- `enc.cfg` -/
  cfg : ProtocolConfig
  /-- `enc.valid` -/
  valid : Bool
  /-- `enc.fb`, capacity 521 bytes -/
  fb : List Byte
  /-- `enc.out`, capacity 4200 signal changes -/
  out : List SignalChange
  deriving DecidableEq, Repr

/-- The decoder (spec/10_state.md R20, R31, R33). -/
structure Decoder where
  /-- `dec.cfg` -/
  cfg : ProtocolConfig
  /-- `dec.valid` -/
  valid : Bool
  /-- `dec.state` -/
  state : DecState
  /-- `dec.fb`, capacity 521 bytes -/
  fb : List Byte
  /-- `dec.currentByte` -/
  currentByte : Byte
  /-- `dec.bitsFilled` -/
  bitsFilled : BitVec 4
  /-- `dec.pendingSymbol` -/
  pendingSymbol : Sym
  /-- `dec.lengthKnown` -/
  lengthKnown : Bool
  /-- `dec.expectedLen` -/
  expectedLen : BitVec 10
  /-- `dec.frameActive` -/
  frameActive : Bool
  /-- `dec.stats[0..8]` -/
  stats : Stats
  /-- `dec.cbEn` -/
  cbEn : Bool
  /-- `dec.cbCtx` -/
  cbCtx : Context
  deriving DecidableEq, Repr

/-- The status of a response (spec/30_encoding.md R62); the fourth code is never produced. -/
inductive Status where
  | ok
  | fail
  | illegal
  deriving DecidableEq, Repr

/-- The data of a response, by the operation that answers (spec/30_encoding.md R62). -/
inductive ResponseData where
  /-- no data -/
  | none
  /-- `crc[15:0]` -/
  | crc (value : BitVec 16)
  /-- `level[2:0]` -/
  | level (code : LevelCode)
  /-- `sym[1:0]` -/
  | sym (value : Sym)
  /-- `valid` -/
  | valid (value : Bool)
  /-- `count[12:0]` and the sequence of packed SignalChanges -/
  | changes (count : BitVec 13) (sequence : List (BitVec 35))
  /-- `stats[287:0]` -/
  | stats (packed : BitVec 288)
  /-- `cfg[175:0]` -/
  | cfg (packed : BitVec 176)
  deriving DecidableEq, Repr

/-- The response of one operation (spec/30_encoding.md R62). -/
structure Response where
  status : Status
  data : ResponseData
  deriving DecidableEq, Repr

/-- A payload delivery event, the triple `(payload_bytes, length, user_context)` (spec/60_exceptions.md R196). -/
structure Delivery where
  payload : List Byte
  length : Nat
  ctx : Context
  deriving DecidableEq, Repr

/-- What the host can observe: an operation's response, or a delivery event (spec/00_scope.md R12). -/
inductive Output where
  | response (r : Response)
  | deliver (e : Delivery)
  deriving DecidableEq, Repr

/-- The state of the block: three subunits that share nothing (spec/10_state.md R20), and the model's own two fields
for its interface: the commands the host has yet to issue, and what the block has put out
(notes/assumptions/1.md). -/
structure State where
  crc : CrcUnit
  enc : Encoder
  dec : Decoder
  /-- The model's own: the operations the host will issue, in their order; a step takes the first. -/
  port : List Packet
  /-- The model's own: every response and delivery event so far, oldest first. -/
  outs : List Output
  deriving DecidableEq, Repr

/-- The reasons the machine stops. The block itself has none: "None of the three is a fault that stops the block"
(spec/00_scope.md R13). -/
inductive Fault where
  /-- Raised by `step` alone, on a packet whose byte sequence has not the length its word announces, which
  spec/30_encoding.md R65 (d) says cannot be expressed: it is no command of the block. Safe: the spec gives such a packet
  no effect, and no command of the spec raises it. notes/assumptions/2.md. -/
  | payloadMismatch
  deriving DecidableEq, Repr

/-- The reasons an instruction has no meaning. -/
inductive Refusal where
  /-- Raised by an arm of `exec` whose instruction has no meaning yet. Safe: the machine stops. No arm raises it: every
  instruction has its meaning. -/
  | notModelled (mnemonic : String)
  deriving DecidableEq, Repr

/-- The nine counters at 0 (spec/10_state.md R38). -/
def Stats.zero : Stats where
  framesDecoded := 0
  magicMismatches := 0
  headerRejects := 0
  lengthViolations := 0
  crcFailures := 0
  enderMismatches := 0
  durationRejections := 0
  markRejections := 0
  truncatedFrames := 0

/-- The encoder after reset (spec/10_state.md R38). -/
def Encoder.reset : Encoder where
  cfg := Config.defaults
  valid := true
  fb := []
  out := []

/-- The decoder after reset (spec/10_state.md R38). -/
def Decoder.reset : Decoder where
  cfg := Config.defaults
  valid := true
  state := .idle
  fb := []
  currentByte := 0
  bitsFilled := 0
  pendingSymbol := 0
  lengthKnown := false
  expectedLen := 0
  frameActive := false
  stats := Stats.zero
  cbEn := false
  cbCtx := 0

/-- The block right after reset: the table of spec/10_state.md R38, with no command presented and nothing put out. -/
def State.reset : State where
  crc := { acc := 0xFFFF }
  enc := Encoder.reset
  dec := Decoder.reset
  port := []
  outs := []

end Sys2Proof.Machine
end

