-- ==== Sys2Proof/Machine/Operands.lean ====
section
/-! DEFINITION. The values operands and responses are made of: LightLevel codes, packed SignalChanges, packed
DecoderStats (spec/30_encoding.md R66 to R69), and the arithmetic of durations and unit counts
(spec/00_scope.md R10, spec/42_config_tolerance.md R110 to R112, spec/44_decoder.md R152). -/

namespace Sys2Proof.Machine

/-- The code of a LightLevel (spec/30_encoding.md R66). -/
def levelCode : LightLevel → LevelCode
  | .off => 0
  | .white => 1
  | .red => 2
  | .green => 3
  | .blue => 4

/-- The LightLevel a code stands for; `none` for the reserved codes 5, 6 and 7 (spec/30_encoding.md R65, R66). -/
def levelOfCode (c : LevelCode) : Option LightLevel :=
  if c = 0 then some .off
  else if c = 1 then some .white
  else if c = 2 then some .red
  else if c = 3 then some .green
  else if c = 4 then some .blue
  else none

/-- The code of `dec.state`, which no operation shows (spec/10_state.md R24). -/
def stateCode : DecState → BitVec 2
  | .idle => 0
  | .waitSpace => 1
  | .readMark => 2
  | .readSpace => 3

/-- The code of a status (spec/30_encoding.md R62). -/
def statusCode : Status → BitVec 2
  | .ok => 0
  | .fail => 1
  | .illegal => 2

/-- Packed SignalChange: duration in bits [31:0], level in bits [34:32] (spec/30_encoding.md R67). -/
def packChange (c : SignalChange) : BitVec 35 := c.level ++ c.duration

/-- Packed DecoderStats: counter `k` in bits [32k+31 : 32k] (spec/30_encoding.md R69). -/
def packStats (t : Stats) : BitVec 288 :=
  t.truncatedFrames ++ t.markRejections ++ t.durationRejections ++ t.enderMismatches ++ t.crcFailures
    ++ t.lengthViolations ++ t.headerRejects ++ t.magicMismatches ++ t.framesDecoded

/-- `round_half_up(n, d) = (2·n + d) div (2·d)`, used with `d ≥ 1` (spec/00_scope.md R10). -/
def roundHalfUp (n d : Nat) : Nat := (2 * n + d) / (2 * d)

/-- `|a − b|` of two unsigned integers (spec/00_scope.md R9). -/
def absDiff (a b : Nat) : Nat := if a ≤ b then b - a else a - b

/-- `p(cfg) = max(cfg.DRIFT, 10)`, the effective drift limit in thousandths (spec/42_config_tolerance.md R110). -/
def effectiveDrift (cfg : ProtocolConfig) : Nat := max cfg.allowedDriftPermille.toNat 10

/-- `tolerance(cfg, E)` in units (spec/42_config_tolerance.md R111). -/
def tolerance (cfg : ProtocolConfig) (expected : Nat) : Nat :=
  max 1 (roundHalfUp (expected * effectiveDrift cfg) Config.driftDen)

/-- `units ≈ E`, the unit-match predicate (spec/42_config_tolerance.md R112). -/
def unitsMatch (cfg : ProtocolConfig) (units expected : Nat) : Bool :=
  decide (absDiff units expected ≤ tolerance cfg expected)

/-- `units` of a change: its duration in units, rounded half up (spec/44_decoder.md R152). -/
def unitsOf (cfg : ProtocolConfig) (d : Duration) : Nat :=
  roundHalfUp d.toNat cfg.unitDurationMicros.toNat

/-- The product of a unit count and the unit, as a 32-bit duration; no product overflows (spec/43_encoder.md R136). -/
def durationOf (cfg : ProtocolConfig) (count : Units) : Duration :=
  BitVec.ofNat 32 (count.toNat * cfg.unitDurationMicros.toNat)

end Sys2Proof.Machine
end

