-- ==== Sys2Proof/Machine/Flags.lean ====
section
/-! DEFINITION. The one-bit results that steer the block (spec/10_state.md R25): the validation predicate behind
`enc.valid` and `dec.valid`, and the quantizer's timing-invalid test. The block has no condition codes. -/

namespace Sys2Proof.Machine

/-- `c.PC ∈ {White, Red, Green, Blue}`: not Off and not a reserved code (spec/42_config_tolerance.md R114). -/
def isColourCode (c : LevelCode) : Bool :=
  match levelOfCode c with
  | none => false
  | some .off => false
  | some .white => true
  | some .red => true
  | some .green => true
  | some .blue => true

/-- `validConfig(c)` (spec/42_config_tolerance.md R114). The drift, the magic, the ender and the version are not
constrained. -/
def validConfig (c : ProtocolConfig) : Bool :=
  decide (1 ≤ c.unitDurationMicros.toNat)
    && decide (1 ≤ c.preambleMarkUnits.toNat)
    && decide (1 ≤ c.preambleSpaceUnits.toNat)
    && decide (1 ≤ c.symbolMarkUnits.toNat)
    && decide (1 ≤ c.separatorUnits.toNat)
    && decide (1 ≤ c.frameGapUnits.toNat)
    && decide (1 ≤ c.maxPayloadBytes.toNat)
    && decide (c.maxPayloadBytes.toNat ≤ Config.maxPayload)
    && isColourCode c.preambleColor

/-- `invalid` of the quantizer: no unit at all, or an error strictly above the drift limit, both in integers
(spec/44_decoder.md R152). -/
def timingInvalid (cfg : ProtocolConfig) (d : Duration) : Bool :=
  let units := unitsOf cfg d
  let unit := cfg.unitDurationMicros.toNat
  decide (units = 0)
    || decide (effectiveDrift cfg * unit < Config.driftDen * absDiff d.toNat (units * unit))

/-- `isPreambleMark(level, units)` (spec/44_decoder.md R154). -/
def isPreambleMark (cfg : ProtocolConfig) (level : LightLevel) (units : Nat) : Bool :=
  decide (levelCode level = cfg.preambleColor)
    && unitsMatch cfg units cfg.preambleMarkUnits.toNat

end Sys2Proof.Machine
end

