-- ==== Sys2Proof/Machine/Ops.lean ====
section
/-! DEFINITION. The named operations over the state that more than one instruction uses: the bounded buffers
(spec/20_memory.md R42), their big-endian reads (R44), the counters (spec/60_exceptions.md R181), the abort procedure,
which is the block's only entry sequence (R193), the re-arm that follows it, and the output port. -/

namespace Sys2Proof.Machine

/-! ## Bounded buffers -/

/-- `append(buf, v)`: `none` is `full`, and then the buffer stays as it is (spec/20_memory.md R42). -/
def bufAppend {α : Type} (cap : Nat) (buf : List α) (v : α) : Option (List α) :=
  if buf.length < cap then some (buf ++ [v]) else none

/-- A row of appends, stopping at the first that yields `full` (spec/43_encoder.md R131). -/
def bufAppendAll {α : Type} (cap : Nat) : List α → List α → Option (List α)
  | buf, [] => some buf
  | buf, v :: vs =>
    match bufAppend cap buf v with
    | some buf' => bufAppendAll cap buf' vs
    | none => none

/-- `buf[i]`. An entry at the length or above has no value and no rule reads one (spec/20_memory.md R42): there the answer
is the free value of Config. -/
def bufRead (buf : List Byte) (i : Nat) : Byte :=
  buf.getD i (Config.beyondLength i)

/-- `MemRead(buf, i, 2) = (buf[i] << 8) | buf[i+1]` (spec/00_scope.md R11, spec/20_memory.md R44). -/
def memRead16 (buf : List Byte) (i : Nat) : BitVec 16 := bufRead buf i ++ bufRead buf (i + 1)

/-- `MemWrite` of two bytes: the more significant byte at the lower offset (spec/00_scope.md R11, spec/20_memory.md R44). -/
def bytesOf16 (v : BitVec 16) : List Byte := [v.extractLsb' 8 8, v.extractLsb' 0 8]

/-- The three buffers hold no more entries than their capacities (spec/20_memory.md R41, R42): the canonical form of the
block's memory. -/
def Memory.wf (s : State) : Bool :=
  decide (s.enc.fb.length ≤ Config.frameCap)
    && decide (s.enc.out.length ≤ Config.maxSignalChanges)
    && decide (s.dec.fb.length ≤ Config.frameCap)

/-! ## Counters -/

/-- The index of a counter, which is its cause code (spec/10_state.md R29, spec/60_exceptions.md R181). -/
def counterIndex : Counter → Nat
  | .framesDecoded => 0
  | .magicMismatches => 1
  | .headerRejects => 2
  | .lengthViolations => 3
  | .crcFailures => 4
  | .enderMismatches => 5
  | .durationRejections => 6
  | .markRejections => 7
  | .truncatedFrames => 8

/-- `dec.stats[k]` by the counter's name. -/
def Stats.get (t : Stats) : Counter → Count
  | .framesDecoded => t.framesDecoded
  | .magicMismatches => t.magicMismatches
  | .headerRejects => t.headerRejects
  | .lengthViolations => t.lengthViolations
  | .crcFailures => t.crcFailures
  | .enderMismatches => t.enderMismatches
  | .durationRejections => t.durationRejections
  | .markRejections => t.markRejections
  | .truncatedFrames => t.truncatedFrames

/-- `min(c + 1, 0xFFFFFFFF)`: counters saturate (spec/10_state.md R29). -/
def saturatingInc (c : Count) : Count := if c = 0xFFFFFFFF then c else c + 1

/-- `bump(k)` (spec/60_exceptions.md R181). -/
def Stats.bump (t : Stats) : Counter → Stats
  | .framesDecoded => { t with framesDecoded := saturatingInc t.framesDecoded }
  | .magicMismatches => { t with magicMismatches := saturatingInc t.magicMismatches }
  | .headerRejects => { t with headerRejects := saturatingInc t.headerRejects }
  | .lengthViolations => { t with lengthViolations := saturatingInc t.lengthViolations }
  | .crcFailures => { t with crcFailures := saturatingInc t.crcFailures }
  | .enderMismatches => { t with enderMismatches := saturatingInc t.enderMismatches }
  | .durationRejections => { t with durationRejections := saturatingInc t.durationRejections }
  | .markRejections => { t with markRejections := saturatingInc t.markRejections }
  | .truncatedFrames => { t with truncatedFrames := saturatingInc t.truncatedFrames }

/-- `bump(k)` on the decoder that holds the counters (spec/60_exceptions.md R181). -/
def Decoder.bump (d : Decoder) (k : Counter) : Decoder := { d with stats := d.stats.bump k }

/-! ## The abort procedure -/

/-- `dec.state <- v`. -/
def Decoder.goto (d : Decoder) (v : DecState) : Decoder := { d with state := v }

/-- `ResetFrameState()` (spec/44_decoder.md R173). -/
def Decoder.resetFrameState (d : Decoder) : Decoder :=
  { d with
    state := .idle
    fb := []
    currentByte := 0
    bitsFilled := 0
    lengthKnown := false
    expectedLen := 0
    pendingSymbol := 0
    frameActive := false }

/-- `Abort()`: count a truncated frame if one was active, then clear the frame state and return to Idle
(spec/60_exceptions.md R193). It saves nothing. -/
def Decoder.abort (d : Decoder) : Decoder :=
  (if d.frameActive then d.bump .truncatedFrames else d).resetFrameState

/-- A rejection: the counter that names the reason, then `Abort()` (spec/60_exceptions.md R193). -/
def Decoder.reject (d : Decoder) (k : Counter) : Decoder := (d.bump k).abort

/-- `Rearm(level, units)`, called straight after `Abort()`: the offending change may itself be a preamble mark
(spec/44_decoder.md R154). Together with Idle it is all there is to a return from an abort (spec/60_exceptions.md R197). -/
def Decoder.rearm (d : Decoder) (level : LightLevel) (units : Nat) : Decoder :=
  if isPreambleMark d.cfg level units then d.goto .waitSpace else d

/-! ## The output port -/

/-- Put one response out (spec/30_encoding.md R62). -/
def State.respond (s : State) (status : Status) (data : ResponseData) : State :=
  { s with outs := s.outs ++ [.response { status := status, data := data }] }

/-- Put a delivery event out, if there is one (spec/60_exceptions.md R196). -/
def State.deliver (s : State) : Option Delivery → State
  | none => s
  | some e => { s with outs := s.outs ++ [.deliver e] }

/-- The answer to a command that is turned away: status `ILLEGAL`, no state change (spec/30_encoding.md R64, R65,
spec/60_exceptions.md R192). -/
def State.illegal (s : State) (data : ResponseData) : State := s.respond .illegal data

/-- Replace the CRC generator's state. -/
def State.withCrc (s : State) (c : CrcUnit) : State := { s with crc := c }

/-- Replace the encoder's state. -/
def State.withEnc (s : State) (e : Encoder) : State := { s with enc := e }

/-- Replace the decoder's state. -/
def State.withDec (s : State) (d : Decoder) : State := { s with dec := d }

end Sys2Proof.Machine
end

