-- ==== Sys2Proof/Machine/Crc.lean ====
section
/-! DEFINITION. The CRC-16/CCITT-FALSE generator: the pure function and `CRC.INIT`, `CRC.BYTE`, `CRC.READ`
(spec/40_crc16.md). -/

namespace Sys2Proof.Machine

/-- The initial value of the CRC register (spec/40_crc16.md R90). -/
def crcInitial : BitVec 16 := 0xFFFF

/-- The generator polynomial without its top term (spec/40_crc16.md R90). -/
def crcPolynomial : BitVec 16 := 0x1021

/-- One shift of `crc16_step`: the bit shifted out decides whether the polynomial is XORed in (spec/40_crc16.md R91). -/
def crc16Shift (c : BitVec 16) : BitVec 16 :=
  if c.getLsbD 15 then (c <<< 1) ^^^ crcPolynomial else c <<< 1

/-- `n` shifts in a row. -/
def crc16Shifts : Nat → BitVec 16 → BitVec 16
  | 0, c => c
  | n + 1, c => crc16Shifts n (crc16Shift c)

/-- `crc16_step(c, b)`: the byte enters the top byte of the register, then eight shifts (spec/40_crc16.md R91). -/
def crc16Step (c : BitVec 16) (b : Byte) : BitVec 16 :=
  crc16Shifts 8 (c ^^^ (b.setWidth 16 <<< 8))

/-- The steps of a byte sequence from a register value, in order (spec/40_crc16.md R92). -/
def crc16From (c : BitVec 16) (bytes : List Byte) : BitVec 16 := bytes.foldl crc16Step c

/-- `crc16(bytes)` (spec/40_crc16.md R92). -/
def crc16 (bytes : List Byte) : BitVec 16 := crc16From crcInitial bytes

/-- `CRC.INIT` (spec/40_crc16.md R93). -/
def execCrcInit (s : State) : Host.Outcome State Fault Refusal :=
  .next ((s.withCrc { acc := crcInitial }).respond .ok .none)

/-- `CRC.BYTE byte` (spec/40_crc16.md R94). -/
def execCrcByte (byte : Byte) (s : State) : Host.Outcome State Fault Refusal :=
  .next ((s.withCrc { acc := crc16Step s.crc.acc byte }).respond .ok .none)

/-- `CRC.READ` (spec/40_crc16.md R95). -/
def execCrcRead (s : State) : Host.Outcome State Fault Refusal :=
  .next (s.respond .ok (.crc s.crc.acc))

end Sys2Proof.Machine
end

