-- ==== Sys2Proof/Machine/Symbol.lean ====
section
/-! DEFINITION. The quaternary symbol codec: the two tables and `SYM.ENC`, `SYM.DEC` (spec/41_symbol_codec.md). -/

namespace Sys2Proof.Machine

/-- `symbolToColor`: `0→Red, 1→Green, 2→Blue, 3→White` (spec/41_symbol_codec.md R100). -/
def symbolToColor (s : Sym) : LightLevel :=
  if s = 0 then .red
  else if s = 1 then .green
  else if s = 2 then .blue
  else .white

/-- `colorToSymbol`: the inverse, without a value for Off (spec/41_symbol_codec.md R101). -/
def colorToSymbol : LightLevel → Option Sym
  | .red => some 0
  | .green => some 1
  | .blue => some 2
  | .white => some 3
  | .off => none

/-- `SYM.ENC sym` (spec/41_symbol_codec.md R102). -/
def execSymEnc (sym : Sym) (s : State) : Host.Outcome State Fault Refusal :=
  .next (s.respond .ok (.level (levelCode (symbolToColor sym))))

/-- `SYM.DEC level`: `ILLEGAL` for a reserved code, `FAIL` for Off, both with data 0 (spec/41_symbol_codec.md R103). -/
def execSymDec (level : LevelCode) (s : State) : Host.Outcome State Fault Refusal :=
  match levelOfCode level with
  | none => .next (s.illegal (.sym 0))
  | some l =>
    match colorToSymbol l with
    | none => .next (s.respond .fail (.sym 0))
    | some sym => .next (s.respond .ok (.sym sym))

end Sys2Proof.Machine
end

