-- ==== Sys2Proof/Machine/Decoder.lean ====
section
/-! DEFINITION. The decoder: the state machine of `DEC.FEED` and the other decoder operations
(spec/44_decoder.md, spec/42_config_tolerance.md R117 to R119). A procedure of `DEC.FEED` answers the decoder it leaves and
the delivery event it emits, if any. -/

namespace Sys2Proof.Machine

/-- `startFrame()` (spec/44_decoder.md R160). -/
def Decoder.startFrame (d : Decoder) : Decoder :=
  { d with
    fb := []
    currentByte := 0
    bitsFilled := 0
    lengthKnown := false
    expectedLen := 0
    pendingSymbol := 0
    frameActive := true }

/-- The event of a successful frame with `L` payload bytes: a copy of `dec.fb[7 .. 6+L]`, if a callback is registered
(spec/44_decoder.md R165, spec/60_exceptions.md R196). -/
def Decoder.deliveryOf (d : Decoder) (len : Nat) : Option Delivery :=
  if d.cbEn then some { payload := (d.fb.drop 7).take len, length := len, ctx := d.cbCtx } else none

/-- `Success(L)` (spec/44_decoder.md R165). -/
def Decoder.success (d : Decoder) (len : Nat) : Decoder × Option Delivery :=
  ((d.bump .framesDecoded).resetFrameState, d.deliveryOf len)

/-- `Finalize()`: the seven checks in their order; the first that fails decides the counter (spec/44_decoder.md R164). -/
def Decoder.finalize (d : Decoder) : Decoder × Option Delivery :=
  let n := d.fb.length
  let len := (memRead16 d.fb 3).toNat
  if n < 9 then (d.reject .headerRejects, none)
  else if memRead16 d.fb 0 ≠ d.cfg.magic then (d.reject .magicMismatches, none)
  else if bufRead d.fb 2 ≠ d.cfg.version then (d.reject .headerRejects, none)
  else if d.cfg.maxPayloadBytes.toNat < len then (d.reject .lengthViolations, none)
  else if n ≠ 9 + len then (d.reject .truncatedFrames, none)
  else if memRead16 d.fb (7 + len) ≠ d.cfg.ender then (d.reject .enderMismatches, none)
  else if crc16 ((d.fb.drop 7).take len) ≠ memRead16 d.fb 5 then (d.reject .crcFailures, none)
  else d.success len

/-- `CheckSize()` (spec/44_decoder.md R163). -/
def Decoder.checkSize (d : Decoder) : Decoder × Option Delivery :=
  if d.expectedLen.toNat < d.fb.length then (d.abort, none)
  else if d.fb.length = d.expectedLen.toNat then d.finalize
  else (d, none)

/-- `ParseLength()`, the `accepted` branch: `dec.lengthKnown <- 1; dec.expectedLen <- 9 + plen` (spec/44_decoder.md R162). -/
def Decoder.acceptLength (d : Decoder) (plen : Nat) : Decoder :=
  { d with lengthKnown := true, expectedLen := BitVec.ofNat 10 (9 + plen) }

/-- What follows a stored byte: the length parse when it is the fifth, and the size check once the length is known
(spec/44_decoder.md R161, R162). -/
def Decoder.afterByte (d : Decoder) : Decoder × Option Delivery :=
  if d.fb.length = 5 then
    let plen := (memRead16 d.fb 3).toNat
    if d.cfg.maxPayloadBytes.toNat < plen then (d.reject .lengthViolations, none)
    else (d.acceptLength plen).checkSize
  else if d.lengthKnown then d.checkSize
  else (d, none)

/-- The first half of `handleSymbol(s)`: the symbol enters the byte accumulator (spec/44_decoder.md R161). -/
def Decoder.shiftIn (d : Decoder) (s : Sym) : Decoder :=
  { d with
    currentByte := (d.currentByte <<< 2) ||| s.setWidth 8
    bitsFilled := d.bitsFilled + 2 }

/-- `handleSymbol(s)` (spec/44_decoder.md R161). -/
def Decoder.handleSymbol (d : Decoder) (s : Sym) : Decoder × Option Delivery :=
  let d1 := d.shiftIn s
  if d1.bitsFilled = 8 then
    match bufAppend Config.frameCap d1.fb d1.currentByte with
    | none => (d1.abort, none)
    | some fb => Decoder.afterByte { d1 with fb := fb, currentByte := 0, bitsFilled := 0 }
  else (d1, none)

/-- `TimingInvalid(level, units)` (spec/44_decoder.md R153). -/
def Decoder.stepTimingInvalid (d : Decoder) (level : LightLevel) (units : Nat) : Decoder :=
  (d.reject .durationRejections).rearm level units

/-- `StepIdle(level, units)` (spec/44_decoder.md R156). -/
def Decoder.stepIdle (d : Decoder) (level : LightLevel) (units : Nat) : Decoder :=
  if isPreambleMark d.cfg level units then d.goto .waitSpace else d

/-- `StepWaitSpace(level, units)` (spec/44_decoder.md R157). -/
def Decoder.stepWaitSpace (d : Decoder) (level : LightLevel) (units : Nat) : Decoder :=
  if level = .off ∧ unitsMatch d.cfg units d.cfg.preambleSpaceUnits.toNat = true then d.startFrame.goto .readMark
  else if isPreambleMark d.cfg level units then d.goto .waitSpace
  else d.abort.rearm level units

/-- The `then` branch of `StepReadMark`: `dec.pendingSymbol <- s; dec.state <- ReadSpace` (spec/44_decoder.md R158). -/
def Decoder.acceptMark (d : Decoder) (s : Sym) : Decoder := { d with pendingSymbol := s, state := .readSpace }

/-- `StepReadMark(level, units)` (spec/44_decoder.md R158). `colorToSymbol` has no value exactly for Off, so that its `none` is
the test `level ≠ Off`. -/
def Decoder.stepReadMark (d : Decoder) (level : LightLevel) (units : Nat) : Decoder :=
  match colorToSymbol level with
  | some s =>
    if unitsMatch d.cfg units d.cfg.symbolMarkUnits.toNat then d.acceptMark s
    else (d.reject .markRejections).rearm level units
  | none => (d.reject .markRejections).rearm level units

/-- The tail of `StepReadSpace`: `if dec.state = ReadSpace then dec.state <- ReadMark` (spec/44_decoder.md R159). -/
def Decoder.backToReadMark (d : Decoder) : Decoder := if d.state = .readSpace then d.goto .readMark else d

/-- An Off space is accepted in ReadSpace if it matches the separator or is at least as long (spec/44_decoder.md R159, R170). -/
def spaceAccepted (cfg : ProtocolConfig) (units : Nat) : Bool :=
  unitsMatch cfg units cfg.separatorUnits.toNat || decide (cfg.separatorUnits.toNat ≤ units)

/-- `StepReadSpace(level, units)` (spec/44_decoder.md R159). -/
def Decoder.stepReadSpace (d : Decoder) (level : LightLevel) (units : Nat) : Decoder × Option Delivery :=
  if level = .off ∧ spaceAccepted d.cfg units = true then
    let r := d.handleSymbol d.pendingSymbol
    (r.1.backToReadMark, r.2)
  else ((d.reject .durationRejections).rearm level units, none)

/-- `DEC.FEED (level, d)` on a decoder whose level code is not reserved (spec/44_decoder.md R150, R151). -/
def Decoder.feed (d : Decoder) (level : LightLevel) (duration : Duration) : Decoder × Option Delivery :=
  if d.valid = false then (d, none)
  else
    let units := unitsOf d.cfg duration
    if timingInvalid d.cfg duration then (d.stepTimingInvalid level units, none)
    else
      match d.state with
      | .idle => (d.stepIdle level units, none)
      | .waitSpace => (d.stepWaitSpace level units, none)
      | .readMark => (d.stepReadMark level units, none)
      | .readSpace => d.stepReadSpace level units

/-- `dec.cfg <- cfg; dec.valid <- validConfig(dec.cfg); ResetFrameState()` (spec/42_config_tolerance.md R117). -/
def Decoder.configure (d : Decoder) (cfg : ProtocolConfig) : Decoder :=
  Decoder.resetFrameState { d with cfg := cfg, valid := validConfig cfg }

/-- `DEC.CONFIGURE cfg` (spec/42_config_tolerance.md R117). -/
def execDecConfigure (cfg : ProtocolConfig) (s : State) : Host.Outcome State Fault Refusal :=
  .next ((s.withDec (s.dec.configure cfg)).respond .ok (.valid (validConfig cfg)))

/-- `DEC.VALID` (spec/42_config_tolerance.md R118). -/
def execDecValid (s : State) : Host.Outcome State Fault Refusal :=
  .next (s.respond .ok (.valid s.dec.valid))

/-- `DEC.FEED (level, d)`: `ILLEGAL` for a reserved level code; else the delivery event, if any, comes out before the
response (spec/44_decoder.md R150, spec/20_memory.md R53 (b)). -/
def execDecFeed (level : LevelCode) (duration : Duration) (s : State) : Host.Outcome State Fault Refusal :=
  match levelOfCode level with
  | none => .next (s.illegal .none)
  | some l =>
    let r := s.dec.feed l duration
    .next (((s.withDec r.1).deliver r.2).respond .ok .none)

/-- `DEC.RESET` (spec/44_decoder.md R166). -/
def execDecReset (s : State) : Host.Outcome State Fault Refusal :=
  .next ((s.withDec s.dec.resetFrameState).respond .ok .none)

/-- `DEC.STATS` (spec/44_decoder.md R167). -/
def execDecStats (s : State) : Host.Outcome State Fault Refusal :=
  .next (s.respond .ok (.stats (packStats s.dec.stats)))

/-- `DEC.CONFIG` (spec/42_config_tolerance.md R119). -/
def execDecConfig (s : State) : Host.Outcome State Fault Refusal :=
  .next (s.respond .ok (.cfg (packConfig s.dec.cfg)))

/-- `dec.cbEn <- en; dec.cbCtx <- ctx` (spec/44_decoder.md R168). -/
def Decoder.setCallback (d : Decoder) (en : Bool) (ctx : Context) : Decoder := { d with cbEn := en, cbCtx := ctx }

/-- `DEC.SETCB en, ctx` (spec/44_decoder.md R168). -/
def execDecSetcb (en : Bool) (ctx : Context) (s : State) : Host.Outcome State Fault Refusal :=
  .next ((s.withDec (s.dec.setCallback en ctx)).respond .ok .none)

end Sys2Proof.Machine
end

