-- ==== Sys2Proof/Machine/Encoder.lean ====
section
/-! DEFINITION. The encoder: `ENC.CONFIGURE`, `ENC.VALID` (spec/42_config_tolerance.md) and `ENC.ENCODE` with its
steps (spec/43_encoder.md). -/

namespace Sys2Proof.Machine

/-- `enc.cfg <- cfg; enc.valid <- validConfig(enc.cfg)` (spec/42_config_tolerance.md R115). -/
def Encoder.configure (e : Encoder) (cfg : ProtocolConfig) : Encoder :=
  { e with cfg := cfg, valid := validConfig cfg }

/-- The bytes `SerializeFrame(P)` appends, in their order (spec/43_encoder.md R132, spec/20_memory.md R43). -/
def frameBytes (cfg : ProtocolConfig) (payload : List Byte) : List Byte :=
  bytesOf16 cfg.magic ++ [cfg.version] ++ bytesOf16 (BitVec.ofNat 16 payload.length)
    ++ bytesOf16 (crc16 payload) ++ payload ++ bytesOf16 cfg.ender

/-- The two changes of the preamble (spec/43_encoder.md R133). -/
def preambleChanges (cfg : ProtocolConfig) : List SignalChange :=
  [{ level := cfg.preambleColor, duration := durationOf cfg cfg.preambleMarkUnits },
   { level := levelCode .off, duration := durationOf cfg cfg.preambleSpaceUnits }]

/-- The mark and the space of one symbol (spec/30_encoding.md R74). -/
def symbolChanges (cfg : ProtocolConfig) (s : Sym) : List SignalChange :=
  [{ level := levelCode (symbolToColor s), duration := durationOf cfg cfg.symbolMarkUnits },
   { level := levelCode .off, duration := durationOf cfg cfg.separatorUnits }]

/-- The four symbols of a byte, most significant pair first (spec/30_encoding.md R73). -/
def symbolsOfByte (b : Byte) : List Sym :=
  [b.extractLsb' 6 2, b.extractLsb' 4 2, b.extractLsb' 2 2, b.extractLsb' 0 2]

/-- The eight changes `EmitByte(b)` appends (spec/43_encoder.md R134). -/
def byteChanges (cfg : ProtocolConfig) (b : Byte) : List SignalChange :=
  (symbolsOfByte b).flatMap (symbolChanges cfg)

/-- The one change of the trailing gap (spec/43_encoder.md R135). -/
def gapChanges (cfg : ProtocolConfig) : List SignalChange :=
  [{ level := levelCode .off, duration := durationOf cfg cfg.frameGapUnits }]

/-- Step 1, `SerializeFrame(P)`, into an empty `enc.fb`; `none` when an append yields `full` (spec/43_encoder.md R131, R132). -/
def serializeFrame (cfg : ProtocolConfig) (payload : List Byte) : Option (List Byte) :=
  bufAppendAll Config.frameCap [] (frameBytes cfg payload)

/-- Step 3, `EmitByte` for every byte of `enc.fb` in ascending offset (spec/43_encoder.md R131, R134). -/
def emitBytes (cfg : ProtocolConfig) : List SignalChange → List Byte → Option (List SignalChange)
  | out, [] => some out
  | out, b :: bs =>
    match bufAppendAll Config.maxSignalChanges out (byteChanges cfg b) with
    | some out' => emitBytes cfg out' bs
    | none => none

/-- Steps 2 to 4 into an empty `enc.out`: preamble, the bytes of the frame, gap (spec/43_encoder.md R131). -/
def emitFrame (cfg : ProtocolConfig) (frame : List Byte) : Option (List SignalChange) :=
  match bufAppendAll Config.maxSignalChanges [] (preambleChanges cfg) with
  | none => none
  | some out1 =>
    match emitBytes cfg out1 frame with
    | none => none
    | some out2 => bufAppendAll Config.maxSignalChanges out2 (gapChanges cfg)

/-- `min(cfg.MAXP, 512)`, the largest payload `ENC.ENCODE` takes (spec/43_encoder.md R131). -/
def encodeCap (cfg : ProtocolConfig) : Nat := min cfg.maxPayloadBytes.toNat Config.maxPayload

/-- What `ENC.ENCODE P` leaves in `enc.fb` and `enc.out` when it succeeds; `none` is the jump to `fail`
(spec/43_encoder.md R131). -/
def encodePayloadBuffers (e : Encoder) (payload : List Byte) : Option (List Byte × List SignalChange) :=
  if e.valid = false then none
  else if encodeCap e.cfg < payload.length then none
  else
    match serializeFrame e.cfg payload with
    | none => none
    | some frame =>
      match emitFrame e.cfg frame with
      | none => none
      | some out => some (frame, out)

/-- `ENC.CONFIGURE cfg` (spec/42_config_tolerance.md R115). -/
def execEncConfigure (cfg : ProtocolConfig) (s : State) : Host.Outcome State Fault Refusal :=
  .next ((s.withEnc (s.enc.configure cfg)).respond .ok (.valid (validConfig cfg)))

/-- `ENC.VALID` (spec/42_config_tolerance.md R116). -/
def execEncValid (s : State) : Host.Outcome State Fault Refusal :=
  .next (s.respond .ok (.valid s.enc.valid))

/-- `ENC.ENCODE P`: transactional, both buffers cleared on failure (spec/43_encoder.md R131). -/
def execEncEncode (payload : List Byte) (s : State) : Host.Outcome State Fault Refusal :=
  match encodePayloadBuffers s.enc payload with
  | some (frame, out) =>
    .next ((s.withEnc { s.enc with fb := frame, out := out }).respond .ok
      (.changes (BitVec.ofNat 13 out.length) (out.map packChange)))
  | none => .next ((s.withEnc { s.enc with fb := [], out := [] }).respond .fail (.changes 0 []))

end Sys2Proof.Machine
end

