-- ==== Sys2Proof/Machine/Dispatch.lean ====
section
/-! DEFINITION. One arm per operation: the meaning of each row of spec/opcode_table.json. -/

namespace Sys2Proof.Machine

def exec (i : Instr) (s : State) : Host.Outcome State Fault Refusal :=
  match i with
  | .crcInit => Sys2Proof.Machine.execCrcInit s
  | .crcByte byte => Sys2Proof.Machine.execCrcByte byte s
  | .crcRead => Sys2Proof.Machine.execCrcRead s
  | .symEnc sym => Sys2Proof.Machine.execSymEnc sym s
  | .symDec level => Sys2Proof.Machine.execSymDec level s
  | .encConfigure cfg => Sys2Proof.Machine.execEncConfigure cfg s
  | .encValid => Sys2Proof.Machine.execEncValid s
  | .encEncode payload => Sys2Proof.Machine.execEncEncode payload s
  | .decConfigure cfg => Sys2Proof.Machine.execDecConfigure cfg s
  | .decValid => Sys2Proof.Machine.execDecValid s
  | .decFeed level duration => Sys2Proof.Machine.execDecFeed level duration s
  | .decReset => Sys2Proof.Machine.execDecReset s
  | .decStats => Sys2Proof.Machine.execDecStats s
  | .decConfig => Sys2Proof.Machine.execDecConfig s
  | .decSetcb en ctx => Sys2Proof.Machine.execDecSetcb en ctx s

end Sys2Proof.Machine
end

