-- ==== Sys2Proof/Machine/Fetch.lean ====
section
/-! DEFINITION. How a command reaches the block: the next packet at the command interface, and the answer to a packet
that is no operation (spec/00_scope.md R7, spec/20_memory.md R53, spec/30_encoding.md R64). -/

namespace Sys2Proof.Machine

/-- The next command the host presents, and the state without it at the port: one command at a time, in the host's order
(spec/20_memory.md R53). -/
def takeCommand (s : State) : Option (Packet × State) :=
  match s.port with
  | [] => none
  | p :: rest => some (p, { s with port := rest })

/-- The step of a block to which no command is presented: "the block is idle between operations and keeps all state"
(spec/60_exceptions.md R203). -/
def idleStep (s : State) : Host.Outcome State Fault Refusal := .next s

/-- The step on a packet that is no operation: an undefined opcode is answered with `ILLEGAL` and changes no state
(spec/30_encoding.md R64); a packet whose payload has not the announced length is no command at all (R65 (d)). -/
def rejectCommand (e : DecodeError) (s : State) : Host.Outcome State Fault Refusal :=
  match e with
  | .undefinedOpcode _ => .next (s.illegal .none)
  | .payloadMismatch _ _ => .fault .payloadMismatch

/-- Present a packet ahead of whatever the host had presented. -/
def State.present (s : State) (p : Packet) : State := { s with port := p :: s.port }

end Sys2Proof.Machine
end

