-- ==== Sys2Proof/Machine/Step.lean ====
section
/-! DEFINITION. One step of the machine: one operation, performed atomically (spec/00_scope.md R7). -/

namespace Sys2Proof.Machine

/-- Take the next command at the port, decode it and run it. With no command at the port the block keeps all state. -/
def step (s : State) : Host.Outcome State Fault Refusal :=
  match takeCommand s with
  | none => idleStep s
  | some (p, s') =>
    match decode p with
    | .ok i => exec i s'
    | .error e => rejectCommand e s'

/-- `s` with the instruction whose bits are `w` presented at the command interface, where `step` takes its next command
(notes/assumptions/1.md). -/
def State.withFetchWord (s : State) (_nbits w : Nat) : State := s.present (packetOfTableWord w)

end Sys2Proof.Machine
end

