-- ==== Sys2Proof/Safety.lean ====
section
/-! DEFINITION. The terms the statements use: the invariants of spec/10_state.md R39, runs of operations, which subunit
an operation works on, and the wire format and the frame checks written a second time, in plain numbers, straight from
spec/30_encoding.md R71 to R76 and spec/44_decoder.md R164. -/

namespace Sys2Proof.Machine

/-! ## Invariants -/

/-- The frame states are exactly ReadMark and ReadSpace (spec/10_state.md R39 (a)). -/
abbrev Decoder.ActiveMatchesState (d : Decoder) : Prop :=
  d.frameActive = true ↔ (d.state = .readMark ∨ d.state = .readSpace)

/-- The byte accumulator holds 0, 2, 4 or 6 bits and no others (spec/10_state.md R39 (b)). -/
abbrev Decoder.AccumulatorBounded (d : Decoder) : Prop :=
  (d.bitsFilled = 0 ∨ d.bitsFilled = 2 ∨ d.bitsFilled = 4 ∨ d.bitsFilled = 6)
    ∧ d.currentByte.toNat < 2 ^ d.bitsFilled.toNat

/-- Without an active frame the frame state is clear (spec/10_state.md R39 (c)). -/
abbrev Decoder.CleanWhenInactive (d : Decoder) : Prop :=
  d.frameActive = false →
    d.fb = [] ∧ d.currentByte = 0 ∧ d.bitsFilled = 0 ∧ d.lengthKnown = false ∧ d.pendingSymbol = 0

/-- In a frame the length is known from the fifth byte on, and the frame is not yet complete (spec/10_state.md R39 (d)). -/
abbrev Decoder.LengthConsistent (d : Decoder) : Prop :=
  d.frameActive = true →
    (d.lengthKnown = true ↔ 5 ≤ d.fb.length)
    ∧ (d.lengthKnown = true →
        d.expectedLen.toNat = 9 + (memRead16 d.fb 3).toNat
        ∧ d.expectedLen.toNat ≤ 9 + d.cfg.maxPayloadBytes.toNat
        ∧ 9 + d.cfg.maxPayloadBytes.toNat ≤ 521
        ∧ d.fb.length < d.expectedLen.toNat)

/-- A disabled decoder is in Idle with no frame (spec/10_state.md R39 (f)). -/
abbrev Decoder.IdleWhenInvalid (d : Decoder) : Prop :=
  d.valid = false → d.state = .idle ∧ d.frameActive = false

/-- The invariants of the decoder: spec/10_state.md R39 (a) to (f), and that `dec.valid` is the result of the validation
predicate (R25). -/
abbrev Decoder.Inv (d : Decoder) : Prop :=
  d.ActiveMatchesState ∧ d.AccumulatorBounded ∧ d.CleanWhenInactive ∧ d.LengthConsistent
    ∧ d.fb.length ≤ 520 ∧ d.IdleWhenInvalid ∧ d.valid = validConfig d.cfg

/-- The invariants of the encoder: the buffers are within their capacities (spec/20_memory.md R41) and `enc.valid` is the
result of the validation predicate (spec/10_state.md R25). -/
abbrev Encoder.Inv (e : Encoder) : Prop :=
  e.fb.length ≤ 521 ∧ e.out.length ≤ 4200 ∧ e.valid = validConfig e.cfg

/-- The invariants of the block. -/
abbrev State.Inv (s : State) : Prop := s.enc.Inv ∧ s.dec.Inv

/-! ## Runs and subunits -/

/-- A sequence of operations, one after the other (spec/20_memory.md R53). -/
def execAll : List Instr → State → Host.Outcome State Fault Refusal
  | [], s => .next s
  | i :: is, s =>
    match exec i s with
    | .next t => execAll is t
    | .fault r => .fault r
    | .refused r => .refused r

/-- `DEC.FEED` of one signal change. -/
def feedOf (c : SignalChange) : Instr := .decFeed c.level c.duration

/-- The subunit an operation works on; the symbol codec holds no state (spec/10_state.md R20). -/
inductive Subunit where
  | crc
  | enc
  | dec
  | codec
  deriving DecidableEq, Repr

/-- The subunit of each operation (spec/30_encoding.md R63). -/
def subunitOf : Instr → Subunit
  | .crcInit | .crcByte _ | .crcRead => .crc
  | .symEnc _ | .symDec _ => .codec
  | .encConfigure _ | .encValid | .encEncode _ => .enc
  | .decConfigure _ | .decValid | .decFeed _ _ | .decReset | .decStats | .decConfig | .decSetcb _ _ => .dec

/-- The operations that change no state (spec/20_memory.md R49). -/
def isReadOnly : Instr → Bool
  | .crcRead | .symEnc _ | .symDec _ | .encValid | .decValid | .decStats | .decConfig => true
  | .crcInit | .crcByte _ | .encConfigure _ | .encEncode _ | .decConfigure _ | .decFeed _ _ | .decReset
  | .decSetcb _ _ => false

/-- The bits of `arg` that an operation's format names (spec/30_encoding.md R61, R68). -/
def namedBits : Op → ArgField
  | .crcInit | .crcRead | .encValid | .decValid | .decReset | .decStats | .decConfig => 0
  | .crcByte => 0xFF
  | .symEnc => 0x3
  | .symDec => 0x7
  | .encConfigure | .decConfigure => ~~~(0x1F <<< 99)
  | .encEncode => 0xFFFF
  | .decFeed => 0x7FFFFFFFF
  | .decSetcb => 0x1FFFFFFFF

/-- The response `OK` without data. -/
abbrev okNone : Output := .response { status := .ok, data := .none }

/-! ## The wire format in plain numbers -/

/-- The two bytes of a 16-bit number, the more significant first (spec/20_memory.md R44). -/
def bigEndian (n : Nat) : List Byte := [BitVec.ofNat 8 (n / 256), BitVec.ofNat 8 (n % 256)]

/-- The frame of a payload: magic, version, length, CRC of the payload, payload, ender (spec/30_encoding.md R71, R72). -/
def wireFrame (cfg : ProtocolConfig) (payload : List Byte) : List Byte :=
  bigEndian cfg.magic.toNat ++ [cfg.version] ++ bigEndian payload.length ++ bigEndian (crc16 payload).toNat
    ++ payload ++ bigEndian cfg.ender.toNat

/-- A duration of `count` units (spec/30_encoding.md R74, R75). -/
def wireDuration (cfg : ProtocolConfig) (count : Units) : Duration :=
  BitVec.ofNat 32 (count.toNat * cfg.unitDurationMicros.toNat)

/-- The level code of a symbol's colour: Red 2, Green 3, Blue 4, White 1 (spec/41_symbol_codec.md R100). -/
def colourCode : Nat → LevelCode
  | 0 => 2
  | 1 => 3
  | 2 => 4
  | _ => 1

/-- The symbol of a colour's level code (spec/41_symbol_codec.md R101); of no use for Off and the reserved codes. -/
def symbolOfCode (c : LevelCode) : Sym :=
  if c = 2 then 0 else if c = 3 then 1 else if c = 4 then 2 else 3

/-- The eight changes of a byte: for the shifts 6, 4, 2, 0 a coloured mark and an Off separator (spec/30_encoding.md R73, R74). -/
def wireByte (cfg : ProtocolConfig) (b : Byte) : List SignalChange :=
  [6, 4, 2, 0].flatMap fun sh =>
    [{ level := colourCode (b.toNat / 2 ^ sh % 4), duration := wireDuration cfg cfg.symbolMarkUnits },
     { level := 0, duration := wireDuration cfg cfg.separatorUnits }]

/-- The signal changes of a frame: preamble, bytes, trailing gap (spec/30_encoding.md R75, R76). -/
def wireChanges (cfg : ProtocolConfig) (frame : List Byte) : List SignalChange :=
  [{ level := cfg.preambleColor, duration := wireDuration cfg cfg.preambleMarkUnits },
   { level := 0, duration := wireDuration cfg cfg.preambleSpaceUnits }]
    ++ frame.flatMap (wireByte cfg)
    ++ [{ level := 0, duration := wireDuration cfg cfg.frameGapUnits }]

/-! ## The decoder's effects in plain terms -/

/-- A preamble mark: the preamble's colour, and units that match `preambleMarkUnits` (spec/44_decoder.md R154). -/
abbrev PreambleMark (cfg : ProtocolConfig) (level : LevelCode) (d : Duration) : Prop :=
  level = cfg.preambleColor ∧ unitsMatch cfg (unitsOf cfg d) cfg.preambleMarkUnits.toNat = true

/-- An Off space that ReadSpace accepts (spec/44_decoder.md R159). -/
abbrev AcceptedSpace (cfg : ProtocolConfig) (level : LevelCode) (d : Duration) : Prop :=
  level = 0 ∧ (unitsMatch cfg (unitsOf cfg d) cfg.separatorUnits.toNat = true
    ∨ cfg.separatorUnits.toNat ≤ unitsOf cfg d)

/-- The decoder with its frame state cleared (spec/44_decoder.md R173), in the given state and with the given counters. -/
def clearedDecoder (d : Decoder) (state : DecState) (stats : Stats) : Decoder :=
  { d with
    state := state
    fb := []
    currentByte := 0
    bitsFilled := 0
    pendingSymbol := 0
    lengthKnown := false
    expectedLen := 0
    frameActive := false
    stats := stats }

/-- `Abort()` on the counters: a truncated frame if one was active (spec/60_exceptions.md R193). -/
def abortStats (active : Bool) (t : Stats) : Stats := if active then t.bump .truncatedFrames else t

/-- Where a rejected change leaves the decoder: WaitSpace if it is itself a preamble mark, else Idle
(spec/60_exceptions.md R197). -/
def stateAfterReject (cfg : ProtocolConfig) (level : LevelCode) (d : Duration) : DecState :=
  if PreambleMark cfg level d then .waitSpace else .idle

/-- The byte that the pending symbol completes (spec/44_decoder.md R161). -/
def completedByte (d : Decoder) : Byte := BitVec.ofNat 8 (d.currentByte.toNat * 4 + d.pendingSymbol.toNat)

/-- Byte `i` of a frame as a number; the 0 for an index the frame has not is never looked at by the checks below. -/
def byteAt (frame : List Byte) (i : Nat) : Nat := (frame.getD i 0).toNat

/-- The 16-bit field at offset `i`, big-endian (spec/20_memory.md R44). -/
def fieldAt (frame : List Byte) (i : Nat) : Nat := byteAt frame i * 256 + byteAt frame (i + 1)

/-- The seven checks of finalization in their order: does the check pass, and the counter of its failure
(spec/44_decoder.md R164). -/
def frameChecks (cfg : ProtocolConfig) (frame : List Byte) : List (Bool × Counter) :=
  [(decide (9 ≤ frame.length), .headerRejects),
   (decide (fieldAt frame 0 = cfg.magic.toNat), .magicMismatches),
   (decide (byteAt frame 2 = cfg.version.toNat), .headerRejects),
   (decide (fieldAt frame 3 ≤ cfg.maxPayloadBytes.toNat), .lengthViolations),
   (decide (frame.length = 9 + fieldAt frame 3), .truncatedFrames),
   (decide (fieldAt frame (7 + fieldAt frame 3) = cfg.ender.toNat), .enderMismatches),
   (decide ((crc16 ((frame.drop 7).take (fieldAt frame 3))).toNat = fieldAt frame 5), .crcFailures)]

/-- The counter of the first check that fails, if one does (spec/44_decoder.md R164). -/
def firstFailure (cfg : ProtocolConfig) (frame : List Byte) : Option Counter :=
  ((frameChecks cfg frame).find? fun c => !c.1).map fun c => c.2

end Sys2Proof.Machine
end

