-- ==== Sys2Proof/Certificates/Slice0/Obligations.lean ====
section
/-! DEFINITION. The statements about the machine that the provers are to settle. Each says in its docstring which rule of
spec/ it formalises. -/

open Sys2Proof Sys2Proof.Machine

/-! ## Encodings -/

/-- Decoding an encoded well-formed instruction gives the instruction back, with every operand at every value
(30_encoding.md R60, R61, R63, R68). -/
def Obligations.DecodeOfEncode : Prop :=
  ∀ i : Instr, WellFormed i = true → decode (encode i) = .ok i

/-- What decodes is well formed, carries the opcode of its row and the bytes beside the word, and is decoded again from its
own encoding (30_encoding.md R60, R63). -/
def Obligations.DecodedInstrReencodes : Prop :=
  ∀ (p : Packet) (i : Instr), decode p = .ok i →
    WellFormed i = true ∧ i.op.code = opField p.word ∧ (encode i).payload = p.payload
      ∧ decode (encode i) = .ok i

/-- Bits of `arg` that the operation's format does not name are ignored (30_encoding.md R65 (a)). -/
def Obligations.UnnamedOperandBitsIgnored : Prop :=
  ∀ (w w' : CommandWord) (payload : List Byte) (op : Op),
    opField w = op.code → opField w' = op.code →
    argField w &&& namedBits op = argField w' &&& namedBits op →
    decode { word := w, payload := payload } = decode { word := w', payload := payload }

/-- An opcode outside the map encodes no operation: status ILLEGAL, no state change, and the next command is taken
(30_encoding.md R64). Which data stands beside the status is the model's (notes/assumptions/11.md) and not stated. -/
def Obligations.UndefinedOpcodeAnswersIllegal : Prop :=
  ∀ (s : State) (p : Packet) (rest : List Packet), s.port = p :: rest →
    opField p.word ∉ [0x10, 0x11, 0x12, 0x20, 0x21, 0x30, 0x31, 0x32, 0x40, 0x41, 0x42, 0x43, 0x44, 0x45, 0x46] →
    (∀ i : Instr, decode p ≠ .ok i)
    ∧ ∃ data : ResponseData, step s = .next { s with
        port := rest, outs := s.outs ++ [.response { status := .illegal, data := data }] }

/-- Command words of 95_test_vectors.md section 2.8 decode to the operations they stand for, one or more of every family. -/
def Obligations.CommandWordsDecode : Prop :=
  decode { word := 0x1100000000000000000000000000000000000000000048, payload := [] } = .ok (.crcByte 0x48)
  ∧ decode { word := 0x2000000000000000000000000000000000000000000002, payload := [] } = .ok (.symEnc 2)
  ∧ decode { word := 0x2100000000000000000000000000000000000000000004, payload := [] } = .ok (.symDec 4)
  ∧ decode { word := 0x300151AAC39A020000C801000C00010001000800100258, payload := [] }
      = .ok (.encConfigure Config.defaults)
  ∧ decode { word := 0x3200000000000000000000000000000000000000000002, payload := [0x48, 0x69] }
      = .ok (.encEncode [0x48, 0x69])
  ∧ decode { word := 0x4200000000000000000000000000000000000100002580, payload := [] } = .ok (.decFeed 1 9600)
  ∧ decode { word := 0x4600000000000000000000000000000000000100001234, payload := [] } = .ok (.decSetcb true 0x1234)

/-- The layout of a packed ProtocolConfig, read and written, and the default word (30_encoding.md R68). -/
def Obligations.PackedConfigLayout : Prop :=
  (∀ v : BitVec 176,
    (unpackConfig v).unitDurationMicros.toNat = v.toNat % 2 ^ 16
    ∧ (unpackConfig v).preambleMarkUnits.toNat = v.toNat / 2 ^ 16 % 2 ^ 16
    ∧ (unpackConfig v).preambleSpaceUnits.toNat = v.toNat / 2 ^ 32 % 2 ^ 16
    ∧ (unpackConfig v).symbolMarkUnits.toNat = v.toNat / 2 ^ 48 % 2 ^ 16
    ∧ (unpackConfig v).separatorUnits.toNat = v.toNat / 2 ^ 64 % 2 ^ 16
    ∧ (unpackConfig v).frameGapUnits.toNat = v.toNat / 2 ^ 80 % 2 ^ 16
    ∧ (unpackConfig v).preambleColor.toNat = v.toNat / 2 ^ 96 % 2 ^ 3
    ∧ (unpackConfig v).allowedDriftPermille.toNat = v.toNat / 2 ^ 104 % 2 ^ 16
    ∧ (unpackConfig v).maxPayloadBytes.toNat = v.toNat / 2 ^ 120 % 2 ^ 16
    ∧ (unpackConfig v).magic.toNat = v.toNat / 2 ^ 136 % 2 ^ 16
    ∧ (unpackConfig v).ender.toNat = v.toNat / 2 ^ 152 % 2 ^ 16
    ∧ (unpackConfig v).version.toNat = v.toNat / 2 ^ 168 % 2 ^ 8)
  ∧ (∀ c : ProtocolConfig, unpackConfig (packConfig c) = c ∧ (packConfig c).toNat / 2 ^ 99 % 2 ^ 5 = 0)
  ∧ packConfig Config.defaults = 0x0151AAC39A020000C801000C00010001000800100258

/-- The layouts of a packed SignalChange, duration in bits [31:0] and level in bits [34:32] (30_encoding.md R67), and of a packed
DecoderStats, counter `k` in bits [32k+31 : 32k] (R69). -/
def Obligations.PackedChangeAndStatsLayout : Prop :=
  (∀ c : SignalChange,
    (packChange c).toNat % 2 ^ 32 = c.duration.toNat ∧ (packChange c).toNat / 2 ^ 32 = c.level.toNat)
  ∧ ∀ (t : Stats) (k : Counter),
    (packStats t).toNat / 2 ^ (32 * counterIndex k) % 2 ^ 32 = (t.get k).toNat

/-! ## The step and the interface -/

/-- When the packet at the port decodes to an instruction, the step takes the packet and is `exec` of that instruction
(00_scope.md R7). -/
def Obligations.StepRunsDecodedInstr : Prop :=
  ∀ (s : State) (p : Packet) (rest : List Packet) (i : Instr),
    s.port = p :: rest → decode p = .ok i → step s = exec i { s with port := rest }

/-- With no command at the port the block keeps all state (60_exceptions.md R203; the model's step without a command is
notes/assumptions/9.md). -/
def Obligations.IdleBlockKeepsState : Prop :=
  ∀ s : State, s.port = [] → step s = .next s

/-- The machine stops on a packet whose payload has not the length its word announces, which 30_encoding.md R65 (d) says
cannot be expressed, and on nothing else: for every other packet, and without one, the step answers a next state
(00_scope.md R13: no operation stops the block; that the model stops on such a packet is its choice,
notes/assumptions/2.md). -/
def Obligations.StepStopsOnMalformedPacketOnly : Prop :=
  ∀ s : State,
    ((∃ (p : Packet) (rest : List Packet) (op : Op), s.port = p :: rest ∧ opField p.word = op.code
        ∧ p.payload.length ≠ (if op = .encEncode then p.word.toNat % 2 ^ 16 else 0)) →
      step s = .fault .payloadMismatch)
    ∧ (¬ (∃ (p : Packet) (rest : List Packet) (op : Op), s.port = p :: rest ∧ opField p.word = op.code
        ∧ p.payload.length ≠ (if op = .encEncode then p.word.toNat % 2 ^ 16 else 0)) →
      ∃ t, step s = .next t)

/-- Every operation completes and answers exactly once, a delivery event, if any, before the answer; FAIL comes from
`ENC.ENCODE` and `SYM.DEC` alone, ILLEGAL from `SYM.DEC` and `DEC.FEED` alone (00_scope.md R13, 20_memory.md R53 (b)). -/
def Obligations.EveryOperationAnswersOnce : Prop :=
  ∀ (i : Instr) (s : State), ∃ (t : State) (r : Response),
    exec i s = .next t
    ∧ (t.outs = s.outs ++ [.response r]
        ∨ ∃ (level : LevelCode) (d : Duration) (e : Delivery),
            i = .decFeed level d ∧ r.status = .ok ∧ t.outs = s.outs ++ [.deliver e, .response r])
    ∧ (r.status = .fail → (∃ payload, i = .encEncode payload) ∨ i = .symDec 0)
    ∧ (r.status = .illegal → ∃ level : LevelCode, 5 ≤ level.toNat ∧ (i = .symDec level ∨ ∃ d, i = .decFeed level d))

/-- A run of the machine over the encodings of well-formed operations performs these operations one after the other and
leaves the rest of the port (20_memory.md R53). -/
def Obligations.RunPerformsOperationsInOrder : Prop :=
  ∀ (is : List Instr) (s : State) (rest : List Packet), (∀ i ∈ is, WellFormed i = true) →
    Host.Core.run Sys2Proof.core is.length { s with port := is.map encode ++ rest } = execAll is { s with port := rest }

/-- The state of the block after reset (10_state.md R38) and the twelve defaults of the record (R26). -/
def Obligations.ResetState : Prop :=
  State.reset.crc = { acc := 0xFFFF }
  ∧ State.reset.enc = { cfg := Config.defaults, valid := true, fb := [], out := [] }
  ∧ State.reset.dec =
      { cfg := Config.defaults, valid := true, state := .idle, fb := [], currentByte := 0, bitsFilled := 0,
        pendingSymbol := 0, lengthKnown := false, expectedLen := 0, frameActive := false,
        stats := { framesDecoded := 0, magicMismatches := 0, headerRejects := 0, lengthViolations := 0,
                   crcFailures := 0, enderMismatches := 0, durationRejections := 0, markRejections := 0,
                   truncatedFrames := 0 },
        cbEn := false, cbCtx := 0 }
  ∧ Config.defaults =
    { unitDurationMicros := 600, preambleMarkUnits := 16, preambleSpaceUnits := 8, symbolMarkUnits := 1,
      separatorUnits := 1, frameGapUnits := 12, preambleColor := 1, allowedDriftPermille := 200,
      maxPayloadBytes := 512, magic := 0xC39A, ender := 0x51AA, version := 1 }

/-! ## The CRC generator -/

/-- `CRC.INIT`: its encoding and its effect (40_crc16.md R93). -/
def Obligations.CrcInitSetsAccumulator : Prop :=
  (∀ arg : ArgField, decode { word := (0x10 : BitVec 8) ++ arg, payload := [] } = .ok .crcInit)
  ∧ ∀ s : State, exec .crcInit s = .next { s with crc := { acc := 0xFFFF }, outs := s.outs ++ [okNone] }

/-- `CRC.BYTE byte`: its encoding and its effect (40_crc16.md R94). -/
def Obligations.CrcByteStepsAccumulator : Prop :=
  (∀ arg : ArgField, decode { word := (0x11 : BitVec 8) ++ arg, payload := [] }
    = .ok (.crcByte (BitVec.ofNat 8 arg.toNat)))
  ∧ ∀ (byte : Byte) (s : State),
    exec (.crcByte byte) s = .next { s with crc := { acc := crc16Step s.crc.acc byte }, outs := s.outs ++ [okNone] }

/-- `CRC.READ`: its encoding, and its response without a state change (40_crc16.md R95). -/
def Obligations.CrcReadReturnsAccumulator : Prop :=
  (∀ arg : ArgField, decode { word := (0x12 : BitVec 8) ++ arg, payload := [] } = .ok .crcRead)
  ∧ ∀ s : State,
    exec .crcRead s = .next { s with outs := s.outs ++ [.response { status := .ok, data := .crc s.crc.acc }] }

/-- One byte of the CRC: the values `c0` to `c8` of 40_crc16.md R91, as numbers. The spec gives this procedure and marks it as
general knowledge, not the source's (notes/assumptions/12.md). -/
def Obligations.CrcStepIsEightShifts : Prop :=
  ∀ (c : BitVec 16) (b : Byte), ∃ f : Nat → Nat,
    f 0 = c.toNat ^^^ (b.toNat * 256)
    ∧ (∀ n, n < 8 → f (n + 1) =
        if f n / 2 ^ 15 = 1 then (f n * 2 % 2 ^ 16) ^^^ 0x1021 else f n * 2 % 2 ^ 16)
    ∧ (crc16Step c b).toNat = f 8

/-- `crc16` of a byte sequence is one step per byte from 0xFFFF (40_crc16.md R92); and after `CRC.INIT` and one `CRC.BYTE` per
byte, `CRC.READ` returns it (the pseudo-operation `compute_crc16`, R96, an inference that the spec marks
"derived: from rules R92 to R95"). -/
def Obligations.ComputeCrcSequence : Prop :=
  crc16 [] = 0xFFFF
  ∧ (∀ (bytes : List Byte) (b : Byte), crc16 (bytes ++ [b]) = crc16Step (crc16 bytes) b)
  ∧ ∀ (bytes : List Byte) (s : State),
    execAll (.crcInit :: bytes.map Instr.crcByte ++ [.crcRead]) s = .next { s with
      crc := { acc := crc16 bytes }
      outs := s.outs ++ List.replicate (bytes.length + 1) okNone
        ++ [.response { status := .ok, data := .crc (crc16 bytes) }] }

/-- Two byte sequences that differ in exactly one byte have different CRCs (60_exceptions.md R186: a flipped payload bit has
the effect of a flipped CRC bit). -/
def Obligations.CrcDetectsOneWrongByte : Prop :=
  ∀ (before after : List Byte) (b b' : Byte), b ≠ b' → crc16 (before ++ b :: after) ≠ crc16 (before ++ b' :: after)

/-! ## The symbol codec -/

/-- `SYM.ENC sym`: its encoding (41_symbol_codec.md R102), and the colour codes of the table of R100. -/
def Obligations.SymEncReturnsColour : Prop :=
  (∀ arg : ArgField, decode { word := (0x20 : BitVec 8) ++ arg, payload := [] }
    = .ok (.symEnc (BitVec.ofNat 2 arg.toNat)))
  ∧ ∀ (sym : Sym) (s : State),
    exec (.symEnc sym) s = .next { s with outs := s.outs ++ [.response
      { status := .ok
        data := .level (if sym = 0 then 2 else if sym = 1 then 3 else if sym = 2 then 4 else 1) }] }

/-- `SYM.DEC level`: its encoding; the symbol of a colour, FAIL for Off, ILLEGAL for a reserved code
(41_symbol_codec.md R103). -/
def Obligations.SymDecReturnsSymbol : Prop :=
  (∀ arg : ArgField, decode { word := (0x21 : BitVec 8) ++ arg, payload := [] }
    = .ok (.symDec (BitVec.ofNat 3 arg.toNat)))
  ∧ ∀ s : State,
    (∀ sym : Sym,
      exec (.symDec (colourCode sym.toNat)) s = .next { s with
        outs := s.outs ++ [.response { status := .ok, data := .sym sym }] })
    ∧ exec (.symDec 0) s = .next { s with
        outs := s.outs ++ [.response { status := .fail, data := .sym 0 }] }
    ∧ ∀ level : LevelCode, 5 ≤ level.toNat →
        exec (.symDec level) s = .next { s with
          outs := s.outs ++ [.response { status := .illegal, data := .sym 0 }] }

/-- The two tables are inverse to one another, and Off has no symbol (41_symbol_codec.md R101). -/
def Obligations.SymbolTablesInverse : Prop :=
  (∀ s : Sym, colorToSymbol (symbolToColor s) = some s)
  ∧ (∀ c : LightLevel, c ≠ .off → ∃ s, colorToSymbol c = some s ∧ symbolToColor s = c)
  ∧ colorToSymbol .off = none

/-! ## Configuration and tolerance -/

/-- The validation predicate (42_config_tolerance.md R114); its lines on the unit and on the preamble colour are marked there
as the spec's own additions to the source. -/
def Obligations.ValidConfigPredicate : Prop :=
  ∀ c : ProtocolConfig, validConfig c = true ↔
    1 ≤ c.unitDurationMicros.toNat
    ∧ (1 ≤ c.preambleMarkUnits.toNat ∧ 1 ≤ c.preambleSpaceUnits.toNat ∧ 1 ≤ c.symbolMarkUnits.toNat)
    ∧ (1 ≤ c.separatorUnits.toNat ∧ 1 ≤ c.frameGapUnits.toNat)
    ∧ (1 ≤ c.maxPayloadBytes.toNat ∧ c.maxPayloadBytes.toNat ≤ 512)
    ∧ (1 ≤ c.preambleColor.toNat ∧ c.preambleColor.toNat ≤ 4)

/-- The tolerance function and the unit-match predicate (42_config_tolerance.md R110, R111, R112). -/
def Obligations.UnitMatchTolerance : Prop :=
  ∀ (cfg : ProtocolConfig) (units expected : Nat),
    tolerance cfg expected = max 1 ((2 * expected * max cfg.allowedDriftPermille.toNat 10 + 1000) / 2000)
    ∧ (unitsMatch cfg units expected = true ↔
        ((units : Int) - (expected : Int)).natAbs
          ≤ max 1 ((2 * expected * max cfg.allowedDriftPermille.toNat 10 + 1000) / 2000))

/-- `ENC.CONFIGURE cfg`: its encoding; the record is stored whatever it holds (42_config_tolerance.md R115). -/
def Obligations.EncConfigureStoresRecord : Prop :=
  (∀ arg : ArgField, decode { word := (0x30 : BitVec 8) ++ arg, payload := [] }
    = .ok (.encConfigure (unpackConfig arg)))
  ∧ ∀ (cfg : ProtocolConfig) (s : State),
    exec (.encConfigure cfg) s = .next { s with
      enc := { s.enc with cfg := cfg, valid := validConfig cfg }
      outs := s.outs ++ [.response { status := .ok, data := .valid (validConfig cfg) }] }

/-- `ENC.VALID` and `DEC.VALID`: their encodings; each returns the flag of its subunit
(42_config_tolerance.md R116, R118). -/
def Obligations.ValidOperationsReturnFlags : Prop :=
  (∀ arg : ArgField, decode { word := (0x31 : BitVec 8) ++ arg, payload := [] } = .ok .encValid)
  ∧ (∀ arg : ArgField, decode { word := (0x41 : BitVec 8) ++ arg, payload := [] } = .ok .decValid)
  ∧ ∀ s : State,
    exec .encValid s = .next { s with
      outs := s.outs ++ [.response { status := .ok, data := .valid s.enc.valid }] }
    ∧ exec .decValid s = .next { s with
      outs := s.outs ++ [.response { status := .ok, data := .valid s.dec.valid }] }

/-- `DEC.CONFIGURE cfg`: its encoding; the record is stored, the frame state cleared, the counters and the callback kept
(42_config_tolerance.md R117). -/
def Obligations.DecConfigureStoresAndClears : Prop :=
  (∀ arg : ArgField, decode { word := (0x40 : BitVec 8) ++ arg, payload := [] }
    = .ok (.decConfigure (unpackConfig arg)))
  ∧ ∀ (cfg : ProtocolConfig) (s : State),
    exec (.decConfigure cfg) s = .next { s with
      dec := { clearedDecoder s.dec .idle s.dec.stats with cfg := cfg, valid := validConfig cfg }
      outs := s.outs ++ [.response { status := .ok, data := .valid (validConfig cfg) }] }

/-- `DEC.CONFIG`: its encoding; the stored record, packed, valid or not (42_config_tolerance.md R119). -/
def Obligations.DecConfigReturnsRecord : Prop :=
  (∀ arg : ArgField, decode { word := (0x45 : BitVec 8) ++ arg, payload := [] } = .ok .decConfig)
  ∧ ∀ s : State, ∃ packed : BitVec 176,
    exec .decConfig s = .next { s with
      outs := s.outs ++ [.response { status := .ok, data := .cfg packed }] }
    ∧ unpackConfig packed = s.dec.cfg ∧ packed.toNat / 2 ^ 99 % 2 ^ 5 = 0

/-! ## The encoder -/

/-- `ENC.ENCODE P`: its encoding; it succeeds with a valid configuration and a payload within the cap: the frame of R132, the
signal changes of R133 to R135, and the response that carries them (43_encoder.md R131). -/
def Obligations.EncodeBuildsFrameAndChanges : Prop :=
  (∀ (arg : ArgField) (payload : List Byte), payload.length = arg.toNat % 2 ^ 16 →
    decode { word := (0x32 : BitVec 8) ++ arg, payload := payload } = .ok (.encEncode payload))
  ∧ ∀ (payload : List Byte) (s : State), s.enc.valid = true →
    payload.length ≤ min s.enc.cfg.maxPayloadBytes.toNat 512 →
    exec (.encEncode payload) s = .next { s with
      enc := { s.enc with
        fb := wireFrame s.enc.cfg payload
        out := wireChanges s.enc.cfg (wireFrame s.enc.cfg payload) }
      outs := s.outs ++ [.response
        { status := .ok
          data := .changes (BitVec.ofNat 13 (8 * (9 + payload.length) + 3))
            ((wireChanges s.enc.cfg (wireFrame s.enc.cfg payload)).map packChange) }] }

/-- `ENC.ENCODE P` fails with an invalid configuration or a payload above the cap: both buffers are empty, the response is
FAIL without a sequence (43_encoder.md R131, 60_exceptions.md R191). -/
def Obligations.EncodeFailsCleanly : Prop :=
  ∀ (payload : List Byte) (s : State),
    s.enc.valid = false ∨ min s.enc.cfg.maxPayloadBytes.toNat 512 < payload.length →
    exec (.encEncode payload) s = .next { s with
      enc := { s.enc with fb := [], out := [] }
      outs := s.outs ++ [.response { status := .fail, data := .changes 0 [] }] }

/-- The shape of a successful output: its length, the preamble, colour marks at the even entries, Off at the odd ones, and an
Off gap at the end (43_encoder.md R140). -/
def Obligations.EncodeOutputShape : Prop :=
  ∀ (payload : List Byte) (s : State), s.enc.valid = true →
    payload.length ≤ min s.enc.cfg.maxPayloadBytes.toNat 512 →
    ∃ t, exec (.encEncode payload) s = .next t
      ∧ t.enc.out.length = 8 * (9 + payload.length) + 3
      ∧ (t.enc.out[0]?.map fun c => c.level) = some s.enc.cfg.preambleColor
      ∧ (t.enc.out[1]?.map fun c => c.level) = some 0
      ∧ (∀ k, k < 4 * (9 + payload.length) →
          (∃ c, t.enc.out[2 + 2 * k]? = some c ∧ 1 ≤ c.level.toNat ∧ c.level.toNat ≤ 4)
          ∧ (∃ c, t.enc.out[3 + 2 * k]? = some c ∧ c.level = 0))
      ∧ (t.enc.out.getLast?.map fun c => c.level) = some 0

/-- Every emitted duration is a positive multiple of the unit that does not overflow 32 bits (43_encoder.md R136). -/
def Obligations.EmittedDurationsExact : Prop :=
  ∀ (payload : List Byte) (s : State), s.enc.valid = true → validConfig s.enc.cfg = true →
    payload.length ≤ s.enc.cfg.maxPayloadBytes.toNat →
    ∃ t, exec (.encEncode payload) s = .next t
      ∧ ∀ c ∈ t.enc.out, ∃ count ∈ [s.enc.cfg.preambleMarkUnits, s.enc.cfg.preambleSpaceUnits,
            s.enc.cfg.symbolMarkUnits, s.enc.cfg.separatorUnits, s.enc.cfg.frameGapUnits],
          c.duration.toNat = count.toNat * s.enc.cfg.unitDurationMicros.toNat
          ∧ 1 ≤ c.duration.toNat ∧ c.duration.toNat ≤ 65535 * 65535

/-! ## The decoder: timing -/

/-- The quantizer: units rounded half up, the strict comparison of the error with the drift limit, and the error at most half a
unit when there is a unit (44_decoder.md R152); `units` is 0 exactly below half a unit. -/
def Obligations.QuantizerFormula : Prop :=
  ∀ (cfg : ProtocolConfig) (d : Duration), 1 ≤ cfg.unitDurationMicros.toNat →
    unitsOf cfg d = (2 * d.toNat + cfg.unitDurationMicros.toNat) / (2 * cfg.unitDurationMicros.toNat)
    ∧ (timingInvalid cfg d = true ↔
        unitsOf cfg d = 0
        ∨ max cfg.allowedDriftPermille.toNat 10 * cfg.unitDurationMicros.toNat
            < 1000 * ((d.toNat : Int) - (unitsOf cfg d * cfg.unitDurationMicros.toNat : Nat)).natAbs)
    ∧ (1 ≤ unitsOf cfg d →
        2 * ((d.toNat : Int) - (unitsOf cfg d * cfg.unitDurationMicros.toNat : Nat)).natAbs
          ≤ cfg.unitDurationMicros.toNat)
    ∧ (unitsOf cfg d = 0 ↔ 2 * d.toNat < cfg.unitDurationMicros.toNat)

/-- With the defaults a duration is timing-valid exactly when it lies within 120 µs of a positive multiple of 600
(44_decoder.md R152), and a preamble mark matches at 13..19 units, a preamble space at 6..10, a symbol mark and a separator
at 0..2 (42_config_tolerance.md R113). -/
def Obligations.DefaultTimingWindows : Prop :=
  (∀ d : Duration, timingInvalid Config.defaults d = false ↔
    ∃ k : Nat, 1 ≤ k ∧ 600 * k ≤ d.toNat + 120 ∧ d.toNat ≤ 600 * k + 120)
  ∧ ∀ units : Nat,
    (unitsMatch Config.defaults units 16 = true ↔ 13 ≤ units ∧ units ≤ 19)
    ∧ (unitsMatch Config.defaults units 8 = true ↔ 6 ≤ units ∧ units ≤ 10)
    ∧ (unitsMatch Config.defaults units 1 = true ↔ units ≤ 2)

/-! ## The decoder: the rules of DEC.FEED -/

/-- `DEC.FEED`: its encoding; with a reserved level it is ILLEGAL and changes no state (44_decoder.md R150, 30_encoding.md R65 (b)); with another
level, while `dec.valid` = 0, it does nothing and answers OK (44_decoder.md R151, which calls "that a disabled feed counts
nothing" the spec's reading). -/
def Obligations.FeedReservedOrDisabledDoesNothing : Prop :=
  (∀ arg : ArgField, decode { word := (0x42 : BitVec 8) ++ arg, payload := [] }
    = .ok (.decFeed (BitVec.ofNat 3 (arg.toNat / 2 ^ 32)) (BitVec.ofNat 32 arg.toNat)))
  ∧ ∀ (level : LevelCode) (d : Duration) (s : State),
    (5 ≤ level.toNat → exec (.decFeed level d) s = .next { s with
      outs := s.outs ++ [.response { status := .illegal, data := .none }] })
    ∧ (level.toNat ≤ 4 → s.dec.valid = false →
      exec (.decFeed level d) s = .next { s with outs := s.outs ++ [okNone] })

/-- A timing-invalid change, in any state (44_decoder.md R153). -/
def Obligations.FeedTimingInvalid : Prop :=
  ∀ (level : LevelCode) (d : Duration) (s : State), level.toNat ≤ 4 → s.dec.valid = true →
    timingInvalid s.dec.cfg d = true →
    exec (.decFeed level d) s = .next { s with
      dec := clearedDecoder s.dec (stateAfterReject s.dec.cfg level d)
        (abortStats s.dec.frameActive (s.dec.stats.bump .durationRejections))
      outs := s.outs ++ [okNone] }

/-- State Idle (44_decoder.md R156). -/
def Obligations.FeedInIdle : Prop :=
  ∀ (level : LevelCode) (d : Duration) (s : State), level.toNat ≤ 4 → s.dec.valid = true →
    timingInvalid s.dec.cfg d = false → s.dec.state = .idle →
    exec (.decFeed level d) s = .next { s with
      dec := { s.dec with state := if PreambleMark s.dec.cfg level d then .waitSpace else .idle }
      outs := s.outs ++ [okNone] }

/-- State WaitSpace, with `startFrame()` (44_decoder.md R157, R160). -/
def Obligations.FeedInWaitSpace : Prop :=
  ∀ (level : LevelCode) (d : Duration) (s : State), level.toNat ≤ 4 → s.dec.valid = true →
    timingInvalid s.dec.cfg d = false → s.dec.state = .waitSpace →
    exec (.decFeed level d) s = .next { s with
      dec :=
        if level = 0 ∧ unitsMatch s.dec.cfg (unitsOf s.dec.cfg d) s.dec.cfg.preambleSpaceUnits.toNat = true then
          { clearedDecoder s.dec .readMark s.dec.stats with frameActive := true }
        else if PreambleMark s.dec.cfg level d then s.dec
        else clearedDecoder s.dec .idle (abortStats s.dec.frameActive s.dec.stats)
      outs := s.outs ++ [okNone] }

/-- State ReadMark (44_decoder.md R158). -/
def Obligations.FeedInReadMark : Prop :=
  ∀ (level : LevelCode) (d : Duration) (s : State), level.toNat ≤ 4 → s.dec.valid = true →
    timingInvalid s.dec.cfg d = false → s.dec.state = .readMark →
    exec (.decFeed level d) s = .next { s with
      dec :=
        if level ≠ 0 ∧ unitsMatch s.dec.cfg (unitsOf s.dec.cfg d) s.dec.cfg.symbolMarkUnits.toNat = true then
          { s.dec with pendingSymbol := symbolOfCode level, state := .readSpace }
        else
          clearedDecoder s.dec (stateAfterReject s.dec.cfg level d)
            (abortStats s.dec.frameActive (s.dec.stats.bump .markRejections))
      outs := s.outs ++ [okNone] }

/-- State ReadSpace, a colour or a space that is too short (44_decoder.md R159, the else branch; the counter of the too-short
space is marked there as the spec's own choice). -/
def Obligations.FeedInReadSpaceRejects : Prop :=
  ∀ (level : LevelCode) (d : Duration) (s : State), level.toNat ≤ 4 → s.dec.valid = true →
    timingInvalid s.dec.cfg d = false → s.dec.state = .readSpace → ¬ AcceptedSpace s.dec.cfg level d →
    exec (.decFeed level d) s = .next { s with
      dec := clearedDecoder s.dec (stateAfterReject s.dec.cfg level d)
        (abortStats s.dec.frameActive (s.dec.stats.bump .durationRejections))
      outs := s.outs ++ [okNone] }

/-- State ReadSpace, an accepted space that does not complete a byte: the pending symbol enters the accumulator
(44_decoder.md R159, R161). -/
def Obligations.FeedCollectsSymbol : Prop :=
  ∀ (d : Duration) (s : State), s.dec.valid = true → timingInvalid s.dec.cfg d = false →
    s.dec.state = .readSpace → AcceptedSpace s.dec.cfg 0 d → s.dec.bitsFilled ≠ 6 →
    exec (.decFeed 0 d) s = .next { s with
      dec := { s.dec with
        state := .readMark
        currentByte := BitVec.ofNat 8 (s.dec.currentByte.toNat * 4 + s.dec.pendingSymbol.toNat)
        bitsFilled := s.dec.bitsFilled + 2 }
      outs := s.outs ++ [okNone] }

/-- State ReadSpace, an accepted space that completes a byte of a frame that goes on: the byte is stored
(44_decoder.md R161, R163). -/
def Obligations.FeedStoresByte : Prop :=
  ∀ (d : Duration) (s : State), s.dec.valid = true → timingInvalid s.dec.cfg d = false →
    s.dec.state = .readSpace → AcceptedSpace s.dec.cfg 0 d → s.dec.bitsFilled = 6 →
    s.dec.fb.length < 521 → s.dec.fb.length ≠ 4 →
    (s.dec.lengthKnown = true → s.dec.fb.length + 1 < s.dec.expectedLen.toNat) →
    exec (.decFeed 0 d) s = .next { s with
      dec := { s.dec with
        state := .readMark
        fb := s.dec.fb ++ [completedByte s.dec]
        currentByte := 0
        bitsFilled := 0 }
      outs := s.outs ++ [okNone] }

/-- The fifth byte: the length field is parsed, and accepted or rejected (44_decoder.md R162). -/
def Obligations.FeedParsesLength : Prop :=
  ∀ (d : Duration) (s : State) (b0 b1 b2 b3 : Byte), s.dec.valid = true → timingInvalid s.dec.cfg d = false →
    s.dec.state = .readSpace → AcceptedSpace s.dec.cfg 0 d → s.dec.bitsFilled = 6 →
    s.dec.fb = [b0, b1, b2, b3] → s.dec.cfg.maxPayloadBytes.toNat ≤ 512 →
    exec (.decFeed 0 d) s = .next { s with
      dec :=
        if b3.toNat * 256 + (completedByte s.dec).toNat ≤ s.dec.cfg.maxPayloadBytes.toNat then
          { s.dec with
            state := .readMark
            fb := [b0, b1, b2, b3, completedByte s.dec]
            currentByte := 0
            bitsFilled := 0
            lengthKnown := true
            expectedLen := BitVec.ofNat 10 (9 + (b3.toNat * 256 + (completedByte s.dec).toNat)) }
        else
          clearedDecoder s.dec .idle (abortStats s.dec.frameActive (s.dec.stats.bump .lengthViolations))
      outs := s.outs ++ [okNone] }

/-- The byte that completes a frame with a failing check: the first failing check's counter, then `Abort()`
(44_decoder.md R164). -/
def Obligations.FeedRejectsBadFrame : Prop :=
  ∀ (d : Duration) (s : State) (k : Counter), s.dec.valid = true → timingInvalid s.dec.cfg d = false →
    s.dec.state = .readSpace → AcceptedSpace s.dec.cfg 0 d → s.dec.bitsFilled = 6 →
    s.dec.fb.length < 521 → s.dec.fb.length ≠ 4 → s.dec.lengthKnown = true →
    s.dec.fb.length + 1 = s.dec.expectedLen.toNat →
    firstFailure s.dec.cfg (s.dec.fb ++ [completedByte s.dec]) = some k →
    exec (.decFeed 0 d) s = .next { s with
      dec := clearedDecoder s.dec .idle (abortStats s.dec.frameActive (s.dec.stats.bump k))
      outs := s.outs ++ [okNone] }

/-- The byte that completes a good frame: the payload is delivered if a callback is registered, the frame is counted, and
the decoder is in Idle with no truncated frame counted (44_decoder.md R165, 60_exceptions.md R196). -/
def Obligations.FeedDeliversGoodFrame : Prop :=
  ∀ (d : Duration) (s : State) (payload : List Byte), s.dec.valid = true → timingInvalid s.dec.cfg d = false →
    s.dec.state = .readSpace → AcceptedSpace s.dec.cfg 0 d → s.dec.bitsFilled = 6 →
    s.dec.fb.length < 521 → s.dec.lengthKnown = true → s.dec.fb.length + 1 = s.dec.expectedLen.toNat →
    payload.length ≤ s.dec.cfg.maxPayloadBytes.toNat →
    s.dec.fb ++ [completedByte s.dec] = wireFrame s.dec.cfg payload →
    exec (.decFeed 0 d) s = .next { s with
      dec := clearedDecoder s.dec .idle (s.dec.stats.bump .framesDecoded)
      outs := s.outs
        ++ (if s.dec.cbEn then
              [.deliver { payload := payload, length := payload.length, ctx := s.dec.cbCtx }]
            else [])
        ++ [okNone] }

/-- A full frame buffer, or one longer than the expected length, aborts the frame without any other counter
(44_decoder.md R161, R163); `StepKeepsInvariant` shows that neither is reached from reset. -/
def Obligations.FeedOverrunAborts : Prop :=
  ∀ (d : Duration) (s : State), s.dec.valid = true → timingInvalid s.dec.cfg d = false →
    s.dec.state = .readSpace → AcceptedSpace s.dec.cfg 0 d → s.dec.bitsFilled = 6 →
    (s.dec.fb.length = 521
      ∨ (s.dec.fb.length < 521 ∧ s.dec.fb.length ≠ 4 ∧ s.dec.lengthKnown = true
          ∧ s.dec.expectedLen.toNat < s.dec.fb.length + 1)) →
    exec (.decFeed 0 d) s = .next { s with
      dec := clearedDecoder s.dec .idle (abortStats s.dec.frameActive s.dec.stats)
      outs := s.outs ++ [okNone] }

/-! ## The other decoder operations -/

/-- `DEC.RESET`: its encoding; Idle, the frame state cleared, no counter changed (44_decoder.md R166). -/
def Obligations.DecResetClearsFrame : Prop :=
  (∀ arg : ArgField, decode { word := (0x43 : BitVec 8) ++ arg, payload := [] } = .ok .decReset)
  ∧ ∀ s : State,
    exec .decReset s = .next { s with
      dec := clearedDecoder s.dec .idle s.dec.stats
      outs := s.outs ++ [okNone] }

/-- `DEC.STATS`: its encoding; the nine counters, packed; no state changes (44_decoder.md R167). -/
def Obligations.DecStatsReturnsCounters : Prop :=
  (∀ arg : ArgField, decode { word := (0x44 : BitVec 8) ++ arg, payload := [] } = .ok .decStats)
  ∧ ∀ s : State, ∃ packed : BitVec 288,
    exec .decStats s = .next { s with
      outs := s.outs ++ [.response { status := .ok, data := .stats packed }] }
    ∧ ∀ k : Counter, packed.toNat / 2 ^ (32 * counterIndex k) % 2 ^ 32 = (s.dec.stats.get k).toNat

/-- `DEC.SETCB en, ctx`: its encoding and its effect (44_decoder.md R168). -/
def Obligations.DecSetcbStoresCallback : Prop :=
  (∀ arg : ArgField, decode { word := (0x46 : BitVec 8) ++ arg, payload := [] }
    = .ok (.decSetcb (decide (arg.toNat / 2 ^ 32 % 2 = 1)) (BitVec.ofNat 32 arg.toNat)))
  ∧ ∀ (en : Bool) (ctx : Context) (s : State),
    exec (.decSetcb en ctx) s = .next { s with
      dec := { s.dec with cbEn := en, cbCtx := ctx }
      outs := s.outs ++ [okNone] }

/-- `bump(k)` adds one to counter `k`, saturating, and leaves the others (60_exceptions.md R181). -/
def Obligations.BumpSaturates : Prop :=
  ∀ (t : Stats) (k j : Counter),
    ((t.bump k).get j).toNat = if j = k then min ((t.get k).toNat + 1) 0xFFFFFFFF else (t.get j).toNat

/-! ## Whole-machine properties -/

/-- The invariants hold at reset (10_state.md R39). -/
def Obligations.ResetHasInvariant : Prop := State.reset.Inv

/-- The invariants are kept by every step, and no counter is ever smaller than it was (10_state.md R39). -/
def Obligations.StepKeepsInvariant : Prop :=
  ∀ s t : State, s.Inv → step s = .next t →
    t.Inv ∧ ∀ k : Counter, (s.dec.stats.get k).toNat ≤ (t.dec.stats.get k).toNat

/-- The counters one `DEC.FEED` can change: none; code 0 alone; code 6 alone, with no frame active; or one of the codes 1 to 7
together with code 8 (60_exceptions.md R194). -/
def Obligations.FeedCounterCombinations : Prop :=
  ∀ (level : LevelCode) (d : Duration) (s : State), s.Inv → ∃ t, exec (.decFeed level d) s = .next t
    ∧ (t.dec.stats = s.dec.stats
        ∨ t.dec.stats = s.dec.stats.bump .framesDecoded
        ∨ (s.dec.frameActive = false ∧ t.dec.stats = s.dec.stats.bump .durationRejections)
        ∨ (s.dec.frameActive = true ∧ ∃ k : Counter, k ≠ .framesDecoded ∧ k ≠ .truncatedFrames
            ∧ t.dec.stats = (s.dec.stats.bump k).bump .truncatedFrames))

/-- The three subunits share no state: an operation changes only its own subunit, leaves the port, and only appends to the
outputs (00_scope.md R12, 10_state.md R20). -/
def Obligations.OperationChangesOwnSubunitOnly : Prop :=
  ∀ (i : Instr) (s t : State), exec i s = .next t →
    (subunitOf i ≠ .crc → t.crc = s.crc) ∧ (subunitOf i ≠ .enc → t.enc = s.enc)
    ∧ (subunitOf i ≠ .dec → t.dec = s.dec) ∧ t.port = s.port ∧ s.outs <+: t.outs

/-- Operations on different subunits commute: in either order the state of the block is the same, and each puts out the
same (00_scope.md R12). -/
def Obligations.DifferentSubunitsCommute : Prop :=
  ∀ (i j : Instr) (s : State), subunitOf i ≠ subunitOf j →
    ∃ (ti tj tij tji : State) (oi oj : List Output),
      exec i s = .next ti ∧ exec j ti = .next tij ∧ exec j s = .next tj ∧ exec i tj = .next tji
      ∧ tij.crc = tji.crc ∧ tij.enc = tji.enc ∧ tij.dec = tji.dec
      ∧ ti.outs = s.outs ++ oi ∧ tj.outs = s.outs ++ oj
      ∧ tij.outs = s.outs ++ oi ++ oj ∧ tji.outs = s.outs ++ oj ++ oi

/-- The read operations change no state and, repeated, return the same (20_memory.md R49). -/
def Obligations.ReadOperationsChangeNothing : Prop :=
  ∀ (i : Instr) (s : State), isReadOnly i = true → ∃ r : Response,
    exec i s = .next { s with outs := s.outs ++ [.response r] }
    ∧ execAll [i, i] s = .next { s with outs := s.outs ++ [.response r, .response r] }

/-- What is delivered is authentic: a delivery event comes only from the `DEC.FEED` that completes, in ReadSpace with a
callback registered, the frame of exactly the delivered payload, its CRC included (60_exceptions.md R182, R196). -/
def Obligations.DeliveredFrameIsAuthentic : Prop :=
  ∀ (i : Instr) (s t : State) (e : Delivery), exec i s = .next t →
    (∃ more : List Output, t.outs = s.outs ++ more ∧ .deliver e ∈ more) →
    (∃ d : Duration, i = .decFeed 0 d) ∧ s.dec.state = .readSpace ∧ s.dec.cbEn = true
      ∧ e.ctx = s.dec.cbCtx ∧ e.length = e.payload.length
      ∧ e.payload.length ≤ s.dec.cfg.maxPayloadBytes.toNat
      ∧ s.dec.fb ++ [completedByte s.dec] = wireFrame s.dec.cfg e.payload
      ∧ t.dec.stats = s.dec.stats.bump .framesDecoded

/-- The round trip: the changes of `ENC.ENCODE P`, fed in order to an idle decoder with the same valid configuration and a
callback, give one delivery of `P`, count one frame and nothing else, and end in Idle; and the same without the last
change, the trailing gap (44_decoder.md R172). -/
def Obligations.EncodeFeedRoundTrip : Prop :=
  ∀ (payload : List Byte) (s : State), validConfig s.enc.cfg = true → s.enc.valid = true →
    s.dec.cfg = s.enc.cfg → s.dec.valid = true → s.dec.state = .idle → s.dec.cbEn = true →
    payload.length ≤ s.enc.cfg.maxPayloadBytes.toNat →
    ∃ t, exec (.encEncode payload) s = .next t
      ∧ t.outs = s.outs ++ [.response
          { status := .ok
            data := .changes (BitVec.ofNat 13 t.enc.out.length) (t.enc.out.map packChange) }]
      ∧ execAll (t.enc.out.map feedOf) t = .next { t with
          dec := clearedDecoder s.dec .idle (s.dec.stats.bump .framesDecoded)
          outs := t.outs ++ List.replicate (8 * (9 + payload.length) + 1) okNone
            ++ [.deliver { payload := payload, length := payload.length, ctx := s.dec.cbCtx }]
            ++ [okNone, okNone] }
      ∧ execAll (t.enc.out.dropLast.map feedOf) t = .next { t with
          dec := clearedDecoder s.dec .idle (s.dec.stats.bump .framesDecoded)
          outs := t.outs ++ List.replicate (8 * (9 + payload.length) + 1) okNone
            ++ [.deliver { payload := payload, length := payload.length, ctx := s.dec.cbCtx }]
            ++ [okNone] }

/-- The decoder cannot be wedged: from every state a preamble mark that cannot be taken for a symbol mark leads to WaitSpace,
and a preamble space after it starts a new, empty frame (44_decoder.md R171, with the premise of 70_reset_and_hazards.md R222 (a)). -/
def Obligations.PreambleResynchronises : Prop :=
  ∀ (level : LevelCode) (d d' : Duration) (s : State), s.dec.valid = true →
    1 ≤ level.toNat → level.toNat ≤ 4 → PreambleMark s.dec.cfg level d →
    (timingInvalid s.dec.cfg d = true
      ∨ unitsMatch s.dec.cfg (unitsOf s.dec.cfg d) s.dec.cfg.symbolMarkUnits.toNat = false) →
    timingInvalid s.dec.cfg d' = false →
    unitsMatch s.dec.cfg (unitsOf s.dec.cfg d') s.dec.cfg.preambleSpaceUnits.toNat = true →
    ∃ t u, exec (.decFeed level d) s = .next t ∧ t.dec.state = .waitSpace
      ∧ exec (.decFeed 0 d') t = .next u ∧ u.dec.state = .readMark ∧ u.dec.frameActive = true
      ∧ u.dec.fb = [] ∧ u.dec.bitsFilled = 0 ∧ u.dec.lengthKnown = false

/-- A payload with one wrong byte is never delivered: the frame counts a CRC failure and a truncated frame
(60_exceptions.md R186). -/
def Obligations.WrongPayloadByteCountsCrcFailure : Prop :=
  ∀ (d : Duration) (s : State) (before after : List Byte) (b b' : Byte), s.dec.valid = true →
    timingInvalid s.dec.cfg d = false → s.dec.state = .readSpace → AcceptedSpace s.dec.cfg 0 d →
    s.dec.bitsFilled = 6 → s.dec.fb.length < 521 → s.dec.lengthKnown = true → s.dec.frameActive = true →
    s.dec.fb.length + 1 = s.dec.expectedLen.toNat →
    (before ++ b :: after).length ≤ s.dec.cfg.maxPayloadBytes.toNat → b ≠ b' →
    s.dec.fb ++ [completedByte s.dec]
      = (wireFrame s.dec.cfg (before ++ b :: after)).set (7 + before.length) b' →
    exec (.decFeed 0 d) s = .next { s with
      dec := clearedDecoder s.dec .idle ((s.dec.stats.bump .crcFailures).bump .truncatedFrames)
      outs := s.outs ++ [okNone] }
end

