-- ==== Sys2Proof/Laws/Decode.lean ====
section
/-! SUPPORT. The small lemmas of the decoder and the encoder: the opcode map is one to one, and the two fields of a word
are read back as they were written. -/

namespace Sys2Proof

/-- The value of a concatenation: with it, layouts of packed words are linear arithmetic. -/
theorem toNat_append_add {n m : Nat} (x : BitVec n) (y : BitVec m) :
    (x ++ y).toNat = x.toNat * 2 ^ m + y.toNat := by
  rw [BitVec.toNat_append, ← Nat.shiftLeft_add_eq_or_of_lt y.isLt, Nat.shiftLeft_eq]

theorem Op.ofCode_code (op : Op) : Op.ofCode op.code = some op := by cases op <;> decide

theorem Op.code_of_ofCode {b : BitVec 8} {op : Op} (h : Op.ofCode b = some op) : op.code = b := by
  have := List.find?_some h
  simpa using this

theorem Op.mem_all (op : Op) : op ∈ Op.all := by cases op <;> decide

theorem opField_append (op : BitVec 8) (arg : ArgField) : opField (op ++ arg) = op :=
  BitVec.extractLsb'_append_eq_left

theorem argField_append (op : BitVec 8) (arg : ArgField) : argField (op ++ arg) = arg :=
  BitVec.extractLsb'_append_eq_right

theorem opField_encode (i : Instr) : opField (encode i).word = i.op.code := opField_append _ _

theorem argField_encode (i : Instr) : argField (encode i).word = encodeArg i := argField_append _ _

/-- `decode` on a packet whose opcode is that of a row: the payload's length decides. -/
theorem decode_of_op {p : Packet} {op : Op} (h : opField p.word = op.code) :
    decode p =
      if p.payload.length = announcedLength op (argField p.word) then
        .ok (operands op (argField p.word) p.payload)
      else .error (.payloadMismatch (announcedLength op (argField p.word)) p.payload.length) := by
  simp [decode, h, Op.ofCode_code]

/-- Everything `decode` can answer. -/
theorem decode_eq_ok {p : Packet} {i : Instr} (h : decode p = .ok i) :
    ∃ op : Op, opField p.word = op.code ∧ p.payload.length = announcedLength op (argField p.word)
      ∧ i = operands op (argField p.word) p.payload := by
  unfold decode at h
  split at h
  · cases h
  · rename_i op hop
    split at h
    · rename_i hl
      exact ⟨op, (Op.code_of_ofCode hop).symm, hl, by cases h; rfl⟩
    · cases h

theorem operands_op (op : Op) (arg : ArgField) (payload : List Byte) : (operands op arg payload).op = op := by
  cases op <;> rfl

/-- A field of a word, as a number: the bits from `k` up, modulo the field's width. -/
theorem extractLsb'_eq_ofNat {w : Nat} (k n : Nat) (v : BitVec w) :
    v.extractLsb' k n = BitVec.ofNat n (v.toNat / 2 ^ k) := by
  apply BitVec.eq_of_toNat_eq
  simp [Nat.shiftRight_eq_div_pow]

/-- A word written from an opcode of the map and any operand field decodes to the operands of that row, when the bytes beside it
are as many as announced. -/
theorem decode_code_append {op : Op} {arg : ArgField} {payload : List Byte}
    (h : payload.length = announcedLength op arg) :
    decode { word := op.code ++ arg, payload := payload } = .ok (operands op arg payload) := by
  refine (decode_of_op (p := { word := op.code ++ arg, payload := payload }) (op := op) (opField_append _ _)).trans ?_
  dsimp only
  rw [argField_append, if_pos h]

end Sys2Proof
end

