-- ==== Sys2Proof/Laws/State.lean ====
section
/-! SUPPORT. One lemma per field per update of State, Decoder and Encoder, each true by rfl and tagged @[simp], so that no
proof unfolds a record update. -/

namespace Sys2Proof.Machine

/-! ## Updates of State -/

@[simp] theorem State.respond_crc (s : State) (st : Status) (d : ResponseData) :
    (s.respond st d).crc = s.crc := rfl

@[simp] theorem State.respond_enc (s : State) (st : Status) (d : ResponseData) :
    (s.respond st d).enc = s.enc := rfl

@[simp] theorem State.respond_dec (s : State) (st : Status) (d : ResponseData) :
    (s.respond st d).dec = s.dec := rfl

@[simp] theorem State.respond_port (s : State) (st : Status) (d : ResponseData) :
    (s.respond st d).port = s.port := rfl

@[simp] theorem State.respond_outs (s : State) (st : Status) (d : ResponseData) :
    (s.respond st d).outs = s.outs ++ [.response { status := st, data := d }] := rfl

@[simp] theorem State.illegal_crc (s : State) (d : ResponseData) :
    (s.illegal d).crc = s.crc := rfl

@[simp] theorem State.illegal_enc (s : State) (d : ResponseData) :
    (s.illegal d).enc = s.enc := rfl

@[simp] theorem State.illegal_dec (s : State) (d : ResponseData) :
    (s.illegal d).dec = s.dec := rfl

@[simp] theorem State.illegal_port (s : State) (d : ResponseData) :
    (s.illegal d).port = s.port := rfl

@[simp] theorem State.illegal_outs (s : State) (d : ResponseData) :
    (s.illegal d).outs = s.outs ++ [.response { status := .illegal, data := d }] := rfl

@[simp] theorem State.withCrc_crc (s : State) (c : CrcUnit) :
    (s.withCrc c).crc = c := rfl

@[simp] theorem State.withCrc_enc (s : State) (c : CrcUnit) :
    (s.withCrc c).enc = s.enc := rfl

@[simp] theorem State.withCrc_dec (s : State) (c : CrcUnit) :
    (s.withCrc c).dec = s.dec := rfl

@[simp] theorem State.withCrc_port (s : State) (c : CrcUnit) :
    (s.withCrc c).port = s.port := rfl

@[simp] theorem State.withCrc_outs (s : State) (c : CrcUnit) :
    (s.withCrc c).outs = s.outs := rfl

@[simp] theorem State.withEnc_crc (s : State) (e : Encoder) :
    (s.withEnc e).crc = s.crc := rfl

@[simp] theorem State.withEnc_enc (s : State) (e : Encoder) :
    (s.withEnc e).enc = e := rfl

@[simp] theorem State.withEnc_dec (s : State) (e : Encoder) :
    (s.withEnc e).dec = s.dec := rfl

@[simp] theorem State.withEnc_port (s : State) (e : Encoder) :
    (s.withEnc e).port = s.port := rfl

@[simp] theorem State.withEnc_outs (s : State) (e : Encoder) :
    (s.withEnc e).outs = s.outs := rfl

@[simp] theorem State.withDec_crc (s : State) (d : Decoder) :
    (s.withDec d).crc = s.crc := rfl

@[simp] theorem State.withDec_enc (s : State) (d : Decoder) :
    (s.withDec d).enc = s.enc := rfl

@[simp] theorem State.withDec_dec (s : State) (d : Decoder) :
    (s.withDec d).dec = d := rfl

@[simp] theorem State.withDec_port (s : State) (d : Decoder) :
    (s.withDec d).port = s.port := rfl

@[simp] theorem State.withDec_outs (s : State) (d : Decoder) :
    (s.withDec d).outs = s.outs := rfl

@[simp] theorem State.present_crc (s : State) (p : Packet) :
    (s.present p).crc = s.crc := rfl

@[simp] theorem State.present_enc (s : State) (p : Packet) :
    (s.present p).enc = s.enc := rfl

@[simp] theorem State.present_dec (s : State) (p : Packet) :
    (s.present p).dec = s.dec := rfl

@[simp] theorem State.present_port (s : State) (p : Packet) :
    (s.present p).port = p :: s.port := rfl

@[simp] theorem State.present_outs (s : State) (p : Packet) :
    (s.present p).outs = s.outs := rfl

@[simp] theorem State.deliver_crc (s : State) (e : Option Delivery) : (s.deliver e).crc = s.crc := by cases e <;> rfl

@[simp] theorem State.deliver_enc (s : State) (e : Option Delivery) : (s.deliver e).enc = s.enc := by cases e <;> rfl

@[simp] theorem State.deliver_dec (s : State) (e : Option Delivery) : (s.deliver e).dec = s.dec := by cases e <;> rfl

@[simp] theorem State.deliver_port (s : State) (e : Option Delivery) : (s.deliver e).port = s.port := by cases e <;> rfl

@[simp] theorem State.deliver_outs (s : State) (e : Option Delivery) :
    (s.deliver e).outs = s.outs ++ (e.map Output.deliver).toList := by cases e <;> simp [State.deliver]

/-! ## Updates of Decoder -/

@[simp] theorem Decoder.bump_cfg (d : Decoder) (k : Counter) : (d.bump k).cfg = d.cfg := rfl

@[simp] theorem Decoder.bump_valid (d : Decoder) (k : Counter) : (d.bump k).valid = d.valid := rfl

@[simp] theorem Decoder.bump_state (d : Decoder) (k : Counter) : (d.bump k).state = d.state := rfl

@[simp] theorem Decoder.bump_fb (d : Decoder) (k : Counter) : (d.bump k).fb = d.fb := rfl

@[simp] theorem Decoder.bump_currentByte (d : Decoder) (k : Counter) : (d.bump k).currentByte = d.currentByte := rfl

@[simp] theorem Decoder.bump_bitsFilled (d : Decoder) (k : Counter) : (d.bump k).bitsFilled = d.bitsFilled := rfl

@[simp] theorem Decoder.bump_pendingSymbol (d : Decoder) (k : Counter) : (d.bump k).pendingSymbol = d.pendingSymbol := rfl

@[simp] theorem Decoder.bump_lengthKnown (d : Decoder) (k : Counter) : (d.bump k).lengthKnown = d.lengthKnown := rfl

@[simp] theorem Decoder.bump_expectedLen (d : Decoder) (k : Counter) : (d.bump k).expectedLen = d.expectedLen := rfl

@[simp] theorem Decoder.bump_frameActive (d : Decoder) (k : Counter) : (d.bump k).frameActive = d.frameActive := rfl

@[simp] theorem Decoder.bump_stats (d : Decoder) (k : Counter) : (d.bump k).stats = d.stats.bump k := rfl

@[simp] theorem Decoder.bump_cbEn (d : Decoder) (k : Counter) : (d.bump k).cbEn = d.cbEn := rfl

@[simp] theorem Decoder.bump_cbCtx (d : Decoder) (k : Counter) : (d.bump k).cbCtx = d.cbCtx := rfl

@[simp] theorem Decoder.goto_cfg (d : Decoder) (v : DecState) : (d.goto v).cfg = d.cfg := rfl

@[simp] theorem Decoder.goto_valid (d : Decoder) (v : DecState) : (d.goto v).valid = d.valid := rfl

@[simp] theorem Decoder.goto_state (d : Decoder) (v : DecState) : (d.goto v).state = v := rfl

@[simp] theorem Decoder.goto_fb (d : Decoder) (v : DecState) : (d.goto v).fb = d.fb := rfl

@[simp] theorem Decoder.goto_currentByte (d : Decoder) (v : DecState) : (d.goto v).currentByte = d.currentByte := rfl

@[simp] theorem Decoder.goto_bitsFilled (d : Decoder) (v : DecState) : (d.goto v).bitsFilled = d.bitsFilled := rfl

@[simp] theorem Decoder.goto_pendingSymbol (d : Decoder) (v : DecState) : (d.goto v).pendingSymbol = d.pendingSymbol := rfl

@[simp] theorem Decoder.goto_lengthKnown (d : Decoder) (v : DecState) : (d.goto v).lengthKnown = d.lengthKnown := rfl

@[simp] theorem Decoder.goto_expectedLen (d : Decoder) (v : DecState) : (d.goto v).expectedLen = d.expectedLen := rfl

@[simp] theorem Decoder.goto_frameActive (d : Decoder) (v : DecState) : (d.goto v).frameActive = d.frameActive := rfl

@[simp] theorem Decoder.goto_stats (d : Decoder) (v : DecState) : (d.goto v).stats = d.stats := rfl

@[simp] theorem Decoder.goto_cbEn (d : Decoder) (v : DecState) : (d.goto v).cbEn = d.cbEn := rfl

@[simp] theorem Decoder.goto_cbCtx (d : Decoder) (v : DecState) : (d.goto v).cbCtx = d.cbCtx := rfl

@[simp] theorem Decoder.resetFrameState_cfg (d : Decoder) : (d.resetFrameState).cfg = d.cfg := rfl

@[simp] theorem Decoder.resetFrameState_valid (d : Decoder) : (d.resetFrameState).valid = d.valid := rfl

@[simp] theorem Decoder.resetFrameState_state (d : Decoder) : (d.resetFrameState).state = .idle := rfl

@[simp] theorem Decoder.resetFrameState_fb (d : Decoder) : (d.resetFrameState).fb = [] := rfl

@[simp] theorem Decoder.resetFrameState_currentByte (d : Decoder) : (d.resetFrameState).currentByte = 0 := rfl

@[simp] theorem Decoder.resetFrameState_bitsFilled (d : Decoder) : (d.resetFrameState).bitsFilled = 0 := rfl

@[simp] theorem Decoder.resetFrameState_pendingSymbol (d : Decoder) : (d.resetFrameState).pendingSymbol = 0 := rfl

@[simp] theorem Decoder.resetFrameState_lengthKnown (d : Decoder) : (d.resetFrameState).lengthKnown = false := rfl

@[simp] theorem Decoder.resetFrameState_expectedLen (d : Decoder) : (d.resetFrameState).expectedLen = 0 := rfl

@[simp] theorem Decoder.resetFrameState_frameActive (d : Decoder) : (d.resetFrameState).frameActive = false := rfl

@[simp] theorem Decoder.resetFrameState_stats (d : Decoder) : (d.resetFrameState).stats = d.stats := rfl

@[simp] theorem Decoder.resetFrameState_cbEn (d : Decoder) : (d.resetFrameState).cbEn = d.cbEn := rfl

@[simp] theorem Decoder.resetFrameState_cbCtx (d : Decoder) : (d.resetFrameState).cbCtx = d.cbCtx := rfl

@[simp] theorem Decoder.startFrame_cfg (d : Decoder) : (d.startFrame).cfg = d.cfg := rfl

@[simp] theorem Decoder.startFrame_valid (d : Decoder) : (d.startFrame).valid = d.valid := rfl

@[simp] theorem Decoder.startFrame_state (d : Decoder) : (d.startFrame).state = d.state := rfl

@[simp] theorem Decoder.startFrame_fb (d : Decoder) : (d.startFrame).fb = [] := rfl

@[simp] theorem Decoder.startFrame_currentByte (d : Decoder) : (d.startFrame).currentByte = 0 := rfl

@[simp] theorem Decoder.startFrame_bitsFilled (d : Decoder) : (d.startFrame).bitsFilled = 0 := rfl

@[simp] theorem Decoder.startFrame_pendingSymbol (d : Decoder) : (d.startFrame).pendingSymbol = 0 := rfl

@[simp] theorem Decoder.startFrame_lengthKnown (d : Decoder) : (d.startFrame).lengthKnown = false := rfl

@[simp] theorem Decoder.startFrame_expectedLen (d : Decoder) : (d.startFrame).expectedLen = 0 := rfl

@[simp] theorem Decoder.startFrame_frameActive (d : Decoder) : (d.startFrame).frameActive = true := rfl

@[simp] theorem Decoder.startFrame_stats (d : Decoder) : (d.startFrame).stats = d.stats := rfl

@[simp] theorem Decoder.startFrame_cbEn (d : Decoder) : (d.startFrame).cbEn = d.cbEn := rfl

@[simp] theorem Decoder.startFrame_cbCtx (d : Decoder) : (d.startFrame).cbCtx = d.cbCtx := rfl

@[simp] theorem Decoder.shiftIn_cfg (d : Decoder) (s : Sym) : (d.shiftIn s).cfg = d.cfg := rfl

@[simp] theorem Decoder.shiftIn_valid (d : Decoder) (s : Sym) : (d.shiftIn s).valid = d.valid := rfl

@[simp] theorem Decoder.shiftIn_state (d : Decoder) (s : Sym) : (d.shiftIn s).state = d.state := rfl

@[simp] theorem Decoder.shiftIn_fb (d : Decoder) (s : Sym) : (d.shiftIn s).fb = d.fb := rfl

@[simp] theorem Decoder.shiftIn_currentByte (d : Decoder) (s : Sym) : (d.shiftIn s).currentByte = (d.currentByte <<< 2) ||| s.setWidth 8 := rfl

@[simp] theorem Decoder.shiftIn_bitsFilled (d : Decoder) (s : Sym) : (d.shiftIn s).bitsFilled = d.bitsFilled + 2 := rfl

@[simp] theorem Decoder.shiftIn_pendingSymbol (d : Decoder) (s : Sym) : (d.shiftIn s).pendingSymbol = d.pendingSymbol := rfl

@[simp] theorem Decoder.shiftIn_lengthKnown (d : Decoder) (s : Sym) : (d.shiftIn s).lengthKnown = d.lengthKnown := rfl

@[simp] theorem Decoder.shiftIn_expectedLen (d : Decoder) (s : Sym) : (d.shiftIn s).expectedLen = d.expectedLen := rfl

@[simp] theorem Decoder.shiftIn_frameActive (d : Decoder) (s : Sym) : (d.shiftIn s).frameActive = d.frameActive := rfl

@[simp] theorem Decoder.shiftIn_stats (d : Decoder) (s : Sym) : (d.shiftIn s).stats = d.stats := rfl

@[simp] theorem Decoder.shiftIn_cbEn (d : Decoder) (s : Sym) : (d.shiftIn s).cbEn = d.cbEn := rfl

@[simp] theorem Decoder.shiftIn_cbCtx (d : Decoder) (s : Sym) : (d.shiftIn s).cbCtx = d.cbCtx := rfl

@[simp] theorem Decoder.acceptLength_cfg (d : Decoder) (n : Nat) : (d.acceptLength n).cfg = d.cfg := rfl

@[simp] theorem Decoder.acceptLength_valid (d : Decoder) (n : Nat) : (d.acceptLength n).valid = d.valid := rfl

@[simp] theorem Decoder.acceptLength_state (d : Decoder) (n : Nat) : (d.acceptLength n).state = d.state := rfl

@[simp] theorem Decoder.acceptLength_fb (d : Decoder) (n : Nat) : (d.acceptLength n).fb = d.fb := rfl

@[simp] theorem Decoder.acceptLength_currentByte (d : Decoder) (n : Nat) : (d.acceptLength n).currentByte = d.currentByte := rfl

@[simp] theorem Decoder.acceptLength_bitsFilled (d : Decoder) (n : Nat) : (d.acceptLength n).bitsFilled = d.bitsFilled := rfl

@[simp] theorem Decoder.acceptLength_pendingSymbol (d : Decoder) (n : Nat) : (d.acceptLength n).pendingSymbol = d.pendingSymbol := rfl

@[simp] theorem Decoder.acceptLength_lengthKnown (d : Decoder) (n : Nat) : (d.acceptLength n).lengthKnown = true := rfl

@[simp] theorem Decoder.acceptLength_expectedLen (d : Decoder) (n : Nat) : (d.acceptLength n).expectedLen = BitVec.ofNat 10 (9 + n) := rfl

@[simp] theorem Decoder.acceptLength_frameActive (d : Decoder) (n : Nat) : (d.acceptLength n).frameActive = d.frameActive := rfl

@[simp] theorem Decoder.acceptLength_stats (d : Decoder) (n : Nat) : (d.acceptLength n).stats = d.stats := rfl

@[simp] theorem Decoder.acceptLength_cbEn (d : Decoder) (n : Nat) : (d.acceptLength n).cbEn = d.cbEn := rfl

@[simp] theorem Decoder.acceptLength_cbCtx (d : Decoder) (n : Nat) : (d.acceptLength n).cbCtx = d.cbCtx := rfl

@[simp] theorem Decoder.acceptMark_cfg (d : Decoder) (s : Sym) : (d.acceptMark s).cfg = d.cfg := rfl

@[simp] theorem Decoder.acceptMark_valid (d : Decoder) (s : Sym) : (d.acceptMark s).valid = d.valid := rfl

@[simp] theorem Decoder.acceptMark_state (d : Decoder) (s : Sym) : (d.acceptMark s).state = .readSpace := rfl

@[simp] theorem Decoder.acceptMark_fb (d : Decoder) (s : Sym) : (d.acceptMark s).fb = d.fb := rfl

@[simp] theorem Decoder.acceptMark_currentByte (d : Decoder) (s : Sym) : (d.acceptMark s).currentByte = d.currentByte := rfl

@[simp] theorem Decoder.acceptMark_bitsFilled (d : Decoder) (s : Sym) : (d.acceptMark s).bitsFilled = d.bitsFilled := rfl

@[simp] theorem Decoder.acceptMark_pendingSymbol (d : Decoder) (s : Sym) : (d.acceptMark s).pendingSymbol = s := rfl

@[simp] theorem Decoder.acceptMark_lengthKnown (d : Decoder) (s : Sym) : (d.acceptMark s).lengthKnown = d.lengthKnown := rfl

@[simp] theorem Decoder.acceptMark_expectedLen (d : Decoder) (s : Sym) : (d.acceptMark s).expectedLen = d.expectedLen := rfl

@[simp] theorem Decoder.acceptMark_frameActive (d : Decoder) (s : Sym) : (d.acceptMark s).frameActive = d.frameActive := rfl

@[simp] theorem Decoder.acceptMark_stats (d : Decoder) (s : Sym) : (d.acceptMark s).stats = d.stats := rfl

@[simp] theorem Decoder.acceptMark_cbEn (d : Decoder) (s : Sym) : (d.acceptMark s).cbEn = d.cbEn := rfl

@[simp] theorem Decoder.acceptMark_cbCtx (d : Decoder) (s : Sym) : (d.acceptMark s).cbCtx = d.cbCtx := rfl

@[simp] theorem Decoder.configure_cfg (d : Decoder) (c : ProtocolConfig) : (d.configure c).cfg = c := rfl

@[simp] theorem Decoder.configure_valid (d : Decoder) (c : ProtocolConfig) : (d.configure c).valid = validConfig c := rfl

@[simp] theorem Decoder.configure_state (d : Decoder) (c : ProtocolConfig) : (d.configure c).state = .idle := rfl

@[simp] theorem Decoder.configure_fb (d : Decoder) (c : ProtocolConfig) : (d.configure c).fb = [] := rfl

@[simp] theorem Decoder.configure_currentByte (d : Decoder) (c : ProtocolConfig) : (d.configure c).currentByte = 0 := rfl

@[simp] theorem Decoder.configure_bitsFilled (d : Decoder) (c : ProtocolConfig) : (d.configure c).bitsFilled = 0 := rfl

@[simp] theorem Decoder.configure_pendingSymbol (d : Decoder) (c : ProtocolConfig) : (d.configure c).pendingSymbol = 0 := rfl

@[simp] theorem Decoder.configure_lengthKnown (d : Decoder) (c : ProtocolConfig) : (d.configure c).lengthKnown = false := rfl

@[simp] theorem Decoder.configure_expectedLen (d : Decoder) (c : ProtocolConfig) : (d.configure c).expectedLen = 0 := rfl

@[simp] theorem Decoder.configure_frameActive (d : Decoder) (c : ProtocolConfig) : (d.configure c).frameActive = false := rfl

@[simp] theorem Decoder.configure_stats (d : Decoder) (c : ProtocolConfig) : (d.configure c).stats = d.stats := rfl

@[simp] theorem Decoder.configure_cbEn (d : Decoder) (c : ProtocolConfig) : (d.configure c).cbEn = d.cbEn := rfl

@[simp] theorem Decoder.configure_cbCtx (d : Decoder) (c : ProtocolConfig) : (d.configure c).cbCtx = d.cbCtx := rfl

@[simp] theorem Decoder.setCallback_cfg (d : Decoder) (en : Bool) (ctx : Context) : (d.setCallback en ctx).cfg = d.cfg := rfl

@[simp] theorem Decoder.setCallback_valid (d : Decoder) (en : Bool) (ctx : Context) : (d.setCallback en ctx).valid = d.valid := rfl

@[simp] theorem Decoder.setCallback_state (d : Decoder) (en : Bool) (ctx : Context) : (d.setCallback en ctx).state = d.state := rfl

@[simp] theorem Decoder.setCallback_fb (d : Decoder) (en : Bool) (ctx : Context) : (d.setCallback en ctx).fb = d.fb := rfl

@[simp] theorem Decoder.setCallback_currentByte (d : Decoder) (en : Bool) (ctx : Context) : (d.setCallback en ctx).currentByte = d.currentByte := rfl

@[simp] theorem Decoder.setCallback_bitsFilled (d : Decoder) (en : Bool) (ctx : Context) : (d.setCallback en ctx).bitsFilled = d.bitsFilled := rfl

@[simp] theorem Decoder.setCallback_pendingSymbol (d : Decoder) (en : Bool) (ctx : Context) : (d.setCallback en ctx).pendingSymbol = d.pendingSymbol := rfl

@[simp] theorem Decoder.setCallback_lengthKnown (d : Decoder) (en : Bool) (ctx : Context) : (d.setCallback en ctx).lengthKnown = d.lengthKnown := rfl

@[simp] theorem Decoder.setCallback_expectedLen (d : Decoder) (en : Bool) (ctx : Context) : (d.setCallback en ctx).expectedLen = d.expectedLen := rfl

@[simp] theorem Decoder.setCallback_frameActive (d : Decoder) (en : Bool) (ctx : Context) : (d.setCallback en ctx).frameActive = d.frameActive := rfl

@[simp] theorem Decoder.setCallback_stats (d : Decoder) (en : Bool) (ctx : Context) : (d.setCallback en ctx).stats = d.stats := rfl

@[simp] theorem Decoder.setCallback_cbEn (d : Decoder) (en : Bool) (ctx : Context) : (d.setCallback en ctx).cbEn = en := rfl

@[simp] theorem Decoder.setCallback_cbCtx (d : Decoder) (en : Bool) (ctx : Context) : (d.setCallback en ctx).cbCtx = ctx := rfl

/-! `Abort()` and what is built on it, field by field. -/

@[simp] theorem Decoder.abort_cfg (d : Decoder) : d.abort.cfg = d.cfg := by
  unfold Decoder.abort; split <;> rfl

@[simp] theorem Decoder.abort_valid (d : Decoder) : d.abort.valid = d.valid := by
  unfold Decoder.abort; split <;> rfl

@[simp] theorem Decoder.abort_state (d : Decoder) : d.abort.state = .idle := rfl

@[simp] theorem Decoder.abort_fb (d : Decoder) : d.abort.fb = [] := rfl

@[simp] theorem Decoder.abort_currentByte (d : Decoder) : d.abort.currentByte = 0 := rfl

@[simp] theorem Decoder.abort_bitsFilled (d : Decoder) : d.abort.bitsFilled = 0 := rfl

@[simp] theorem Decoder.abort_pendingSymbol (d : Decoder) : d.abort.pendingSymbol = 0 := rfl

@[simp] theorem Decoder.abort_lengthKnown (d : Decoder) : d.abort.lengthKnown = false := rfl

@[simp] theorem Decoder.abort_expectedLen (d : Decoder) : d.abort.expectedLen = 0 := rfl

@[simp] theorem Decoder.abort_frameActive (d : Decoder) : d.abort.frameActive = false := rfl

@[simp] theorem Decoder.abort_stats (d : Decoder) : d.abort.stats = if d.frameActive then d.stats.bump .truncatedFrames else d.stats := by
  unfold Decoder.abort; split <;> rfl

@[simp] theorem Decoder.abort_cbEn (d : Decoder) : d.abort.cbEn = d.cbEn := by
  unfold Decoder.abort; split <;> rfl

@[simp] theorem Decoder.abort_cbCtx (d : Decoder) : d.abort.cbCtx = d.cbCtx := by
  unfold Decoder.abort; split <;> rfl

@[simp] theorem Decoder.reject_cfg (d : Decoder) (k : Counter) : (d.reject k).cfg = d.cfg :=
  Decoder.abort_cfg (d.bump k)

@[simp] theorem Decoder.reject_valid (d : Decoder) (k : Counter) : (d.reject k).valid = d.valid :=
  Decoder.abort_valid (d.bump k)

@[simp] theorem Decoder.reject_state (d : Decoder) (k : Counter) : (d.reject k).state = .idle :=
  Decoder.abort_state (d.bump k)

@[simp] theorem Decoder.reject_fb (d : Decoder) (k : Counter) : (d.reject k).fb = [] :=
  Decoder.abort_fb (d.bump k)

@[simp] theorem Decoder.reject_currentByte (d : Decoder) (k : Counter) : (d.reject k).currentByte = 0 :=
  Decoder.abort_currentByte (d.bump k)

@[simp] theorem Decoder.reject_bitsFilled (d : Decoder) (k : Counter) : (d.reject k).bitsFilled = 0 :=
  Decoder.abort_bitsFilled (d.bump k)

@[simp] theorem Decoder.reject_pendingSymbol (d : Decoder) (k : Counter) : (d.reject k).pendingSymbol = 0 :=
  Decoder.abort_pendingSymbol (d.bump k)

@[simp] theorem Decoder.reject_lengthKnown (d : Decoder) (k : Counter) : (d.reject k).lengthKnown = false :=
  Decoder.abort_lengthKnown (d.bump k)

@[simp] theorem Decoder.reject_expectedLen (d : Decoder) (k : Counter) : (d.reject k).expectedLen = 0 :=
  Decoder.abort_expectedLen (d.bump k)

@[simp] theorem Decoder.reject_frameActive (d : Decoder) (k : Counter) : (d.reject k).frameActive = false :=
  Decoder.abort_frameActive (d.bump k)

@[simp] theorem Decoder.reject_stats (d : Decoder) (k : Counter) : (d.reject k).stats = if d.frameActive then (d.stats.bump k).bump .truncatedFrames else d.stats.bump k :=
  Decoder.abort_stats (d.bump k)

@[simp] theorem Decoder.reject_cbEn (d : Decoder) (k : Counter) : (d.reject k).cbEn = d.cbEn :=
  Decoder.abort_cbEn (d.bump k)

@[simp] theorem Decoder.reject_cbCtx (d : Decoder) (k : Counter) : (d.reject k).cbCtx = d.cbCtx :=
  Decoder.abort_cbCtx (d.bump k)

@[simp] theorem Decoder.rearm_cfg (d : Decoder) (l : LightLevel) (u : Nat) : (d.rearm l u).cfg = d.cfg := by
  unfold Decoder.rearm; split <;> rfl

@[simp] theorem Decoder.rearm_valid (d : Decoder) (l : LightLevel) (u : Nat) : (d.rearm l u).valid = d.valid := by
  unfold Decoder.rearm; split <;> rfl

@[simp] theorem Decoder.rearm_state (d : Decoder) (l : LightLevel) (u : Nat) :
    (d.rearm l u).state = if isPreambleMark d.cfg l u then .waitSpace else d.state := by
  unfold Decoder.rearm; split <;> rfl

@[simp] theorem Decoder.rearm_fb (d : Decoder) (l : LightLevel) (u : Nat) : (d.rearm l u).fb = d.fb := by
  unfold Decoder.rearm; split <;> rfl

@[simp] theorem Decoder.rearm_currentByte (d : Decoder) (l : LightLevel) (u : Nat) : (d.rearm l u).currentByte = d.currentByte := by
  unfold Decoder.rearm; split <;> rfl

@[simp] theorem Decoder.rearm_bitsFilled (d : Decoder) (l : LightLevel) (u : Nat) : (d.rearm l u).bitsFilled = d.bitsFilled := by
  unfold Decoder.rearm; split <;> rfl

@[simp] theorem Decoder.rearm_pendingSymbol (d : Decoder) (l : LightLevel) (u : Nat) : (d.rearm l u).pendingSymbol = d.pendingSymbol := by
  unfold Decoder.rearm; split <;> rfl

@[simp] theorem Decoder.rearm_lengthKnown (d : Decoder) (l : LightLevel) (u : Nat) : (d.rearm l u).lengthKnown = d.lengthKnown := by
  unfold Decoder.rearm; split <;> rfl

@[simp] theorem Decoder.rearm_expectedLen (d : Decoder) (l : LightLevel) (u : Nat) : (d.rearm l u).expectedLen = d.expectedLen := by
  unfold Decoder.rearm; split <;> rfl

@[simp] theorem Decoder.rearm_frameActive (d : Decoder) (l : LightLevel) (u : Nat) : (d.rearm l u).frameActive = d.frameActive := by
  unfold Decoder.rearm; split <;> rfl

@[simp] theorem Decoder.rearm_stats (d : Decoder) (l : LightLevel) (u : Nat) : (d.rearm l u).stats = d.stats := by
  unfold Decoder.rearm; split <;> rfl

@[simp] theorem Decoder.rearm_cbEn (d : Decoder) (l : LightLevel) (u : Nat) : (d.rearm l u).cbEn = d.cbEn := by
  unfold Decoder.rearm; split <;> rfl

@[simp] theorem Decoder.rearm_cbCtx (d : Decoder) (l : LightLevel) (u : Nat) : (d.rearm l u).cbCtx = d.cbCtx := by
  unfold Decoder.rearm; split <;> rfl

/-! ## Updates of Encoder -/

@[simp] theorem Encoder.configure_cfg (e : Encoder) (c : ProtocolConfig) : (e.configure c).cfg = c := rfl

@[simp] theorem Encoder.configure_valid (e : Encoder) (c : ProtocolConfig) : (e.configure c).valid = validConfig c := rfl

@[simp] theorem Encoder.configure_fb (e : Encoder) (c : ProtocolConfig) : (e.configure c).fb = e.fb := rfl

@[simp] theorem Encoder.configure_out (e : Encoder) (c : ProtocolConfig) : (e.configure c).out = e.out := rfl

end Sys2Proof.Machine
end

