-- ==== Sys2Proof/Laws/Ops.lean ====
section
/-! SUPPORT. What the shared operations do, one lemma each: bounded buffers (and that every operation on them keeps
`Memory.wf`), big-endian reads, counters, the abort procedure. -/

namespace Sys2Proof.Machine

/-! ## Bounded buffers -/

theorem bufAppend_eq_some {α : Type} {cap : Nat} {buf b : List α} {v : α} :
    bufAppend cap buf v = some b ↔ buf.length < cap ∧ b = buf ++ [v] := by
  unfold bufAppend
  split <;> simp_all [eq_comm]

theorem bufAppend_eq_none {α : Type} {cap : Nat} {buf : List α} {v : α} :
    bufAppend cap buf v = none ↔ cap ≤ buf.length := by
  unfold bufAppend
  split <;> simp_all

/-- A row of appends that fits yields the buffer with the whole row behind it. -/
theorem bufAppendAll_of_le {α : Type} {cap : Nat} (vs : List α) :
    ∀ buf : List α, buf.length + vs.length ≤ cap → bufAppendAll cap buf vs = some (buf ++ vs) := by
  induction vs with
  | nil => intro buf _; simp [bufAppendAll]
  | cons v vs ih =>
    intro buf h
    have hlt : buf.length < cap := by simp at h; omega
    have := ih (buf ++ [v]) (by simp at h ⊢; omega)
    simp [bufAppendAll, bufAppend, hlt, this]

/-- Whatever a row of appends yields is the buffer with the whole row behind it, and no longer than the capacity if the
buffer was not. -/
theorem bufAppendAll_eq_some {α : Type} {cap : Nat} (vs : List α) :
    ∀ {buf b : List α}, bufAppendAll cap buf vs = some b →
      b = buf ++ vs ∧ (buf.length ≤ cap → b.length ≤ cap) := by
  induction vs with
  | nil => intro buf b h; simp_all [bufAppendAll]
  | cons v vs ih =>
    intro buf b h
    rw [bufAppendAll] at h
    split at h
    · rename_i buf' hb
      obtain ⟨hlt, rfl⟩ := bufAppend_eq_some.1 hb
      obtain ⟨rfl, hle⟩ := ih h
      exact ⟨by simp, fun _ => hle (by simp; omega)⟩
    · cases h

/-- An append keeps a buffer within its capacity. -/
theorem bufAppend_length_le {α : Type} {cap : Nat} {buf b : List α} {v : α} (h : bufAppend cap buf v = some b) :
    b.length ≤ cap := by
  obtain ⟨hlt, rfl⟩ := bufAppend_eq_some.1 h
  simp; omega

/-- `Memory.wf` in plain terms: the three buffers are within their capacities. -/
theorem memory_wf_iff (s : State) :
    Memory.wf s = true ↔ s.enc.fb.length ≤ 521 ∧ s.enc.out.length ≤ 4200 ∧ s.dec.fb.length ≤ 521 := by
  simp only [Memory.wf, Bool.and_eq_true, decide_eq_true_eq, and_assoc]
  exact Iff.rfl

theorem memory_wf_reset : Memory.wf State.reset = true := by decide

/-- Clearing the frame state keeps the buffers' form. -/
theorem memory_wf_resetFrameState {s : State} (h : Memory.wf s = true) :
    Memory.wf (s.withDec s.dec.resetFrameState) = true := by
  rw [memory_wf_iff] at h ⊢
  simp; omega

/-- Storing a byte that `append` took keeps the buffers' form. -/
theorem memory_wf_bufAppend {s : State} {fb : List Byte} {b : Byte} (h : Memory.wf s = true)
    (ha : bufAppend Config.frameCap s.dec.fb b = some fb) :
    Memory.wf (s.withDec { s.dec with fb := fb }) = true := by
  have := bufAppend_length_le ha
  rw [memory_wf_iff] at h ⊢
  simp_all [Config.frameCap]

/-- Storing the rows that `ENC.ENCODE` built from empty buffers keeps the buffers' form. -/
theorem memory_wf_bufAppendAll {s : State} {vs fb : List Byte} {cs out out' : List SignalChange} (h : Memory.wf s = true)
    (hf : bufAppendAll Config.frameCap [] vs = some fb)
    (ho : out.length ≤ Config.maxSignalChanges) (hc : bufAppendAll Config.maxSignalChanges out cs = some out') :
    Memory.wf (s.withEnc { s.enc with fb := fb, out := out' }) = true := by
  have h1 := (bufAppendAll_eq_some vs hf).2 (by simp)
  have h2 := (bufAppendAll_eq_some cs hc).2 ho
  rw [memory_wf_iff] at h ⊢
  simp_all [Config.frameCap, Config.maxSignalChanges]

/-! ## Reads -/

theorem bufRead_of_lt {buf : List Byte} {i : Nat} (h : i < buf.length) : bufRead buf i = buf[i] := by
  simp [bufRead, h]

theorem bufRead_append_left {buf more : List Byte} {i : Nat} (h : i < buf.length) :
    bufRead (buf ++ more) i = bufRead buf i := by
  simp [bufRead, List.getElem?_append_left h]

theorem memRead16_append_left {buf more : List Byte} {i : Nat} (h : i + 1 < buf.length) :
    memRead16 (buf ++ more) i = memRead16 buf i := by
  simp [memRead16, bufRead_append_left h, bufRead_append_left (Nat.lt_of_succ_lt h)]

/-- The big-endian value of two bytes, as a number. -/
theorem memRead16_toNat (buf : List Byte) (i : Nat) :
    (memRead16 buf i).toNat = (bufRead buf i).toNat * 256 + (bufRead buf (i + 1)).toNat := by
  have := (bufRead buf (i + 1)).isLt
  simp only [memRead16, BitVec.toNat_append]
  rw [← Nat.shiftLeft_add_eq_or_of_lt this, Nat.shiftLeft_eq]

/-! ## Counters -/

theorem saturatingInc_toNat (c : Count) : (saturatingInc c).toNat = min (c.toNat + 1) 0xFFFFFFFF := by
  have := c.isLt
  unfold saturatingInc
  split
  · rename_i h; subst h; decide
  · rename_i h
    have : c.toNat ≠ 0xFFFFFFFF := fun hc => h (BitVec.eq_of_toNat_eq (by simpa using hc))
    simp [BitVec.toNat_add]; omega

/-- `bump` changes the counter it names and no other. -/
theorem Stats.get_bump (t : Stats) (k j : Counter) :
    (t.bump k).get j = if j = k then saturatingInc (t.get k) else t.get j := by
  cases k <;> cases j <;> rfl

/-! ## The abort procedure -/

theorem Decoder.abort_eq (d : Decoder) :
    d.abort = { d with
      state := .idle, fb := [], currentByte := 0, bitsFilled := 0, pendingSymbol := 0, lengthKnown := false,
      expectedLen := 0, frameActive := false,
      stats := if d.frameActive then d.stats.bump .truncatedFrames else d.stats } := by
  unfold Decoder.abort; split <;> rfl

theorem Decoder.reject_eq (d : Decoder) (k : Counter) :
    d.reject k = { d with
      state := .idle, fb := [], currentByte := 0, bitsFilled := 0, pendingSymbol := 0, lengthKnown := false,
      expectedLen := 0, frameActive := false,
      stats := if d.frameActive then (d.stats.bump k).bump .truncatedFrames else d.stats.bump k } :=
  Decoder.abort_eq (d.bump k)

theorem Decoder.rearm_eq (d : Decoder) (l : LightLevel) (u : Nat) :
    d.rearm l u = { d with state := if isPreambleMark d.cfg l u then .waitSpace else d.state } := by
  unfold Decoder.rearm; split <;> rfl

end Sys2Proof.Machine
end

