-- ==== Sys2Proof/Laws/Decoder.lean ====
section
/-! SUPPORT. What the decoder's procedures can do, one inversion lemma each: the provers cite these and unfold none of
the procedures. -/

namespace Sys2Proof.Machine

/-! ## Level codes -/

theorem levelOfCode_levelCode (l : LightLevel) : levelOfCode (levelCode l) = some l := by cases l <;> decide

theorem levelCode_of_levelOfCode {c : LevelCode} {l : LightLevel} (h : levelOfCode c = some l) :
    levelCode l = c := by
  revert c l; decide

/-- A level code that is not reserved is the code of a level. -/
theorem exists_level_of_le {c : LevelCode} (h : c.toNat ≤ 4) : ∃ l, levelOfCode c = some l ∧ c = levelCode l := by
  revert c; decide

theorem levelOfCode_reserved {c : LevelCode} (h : 5 ≤ c.toNat) : levelOfCode c = none := by
  revert c; decide

theorem levelCode_eq_zero {l : LightLevel} : levelCode l = 0 ↔ l = .off := by cases l <;> decide

theorem colorToSymbol_eq_none {l : LightLevel} : colorToSymbol l = none ↔ l = .off := by
  cases l <;> simp [colorToSymbol]

/-! ## The frame validator -/

/-- Everything `Finalize()` can do: reject with one counter and no event, or succeed on a frame that passes all checks. -/
theorem Decoder.finalize_cases (d : Decoder) :
    (∃ k, k ≠ .framesDecoded ∧ d.finalize = (d.reject k, none))
    ∨ (9 ≤ d.fb.length ∧ memRead16 d.fb 0 = d.cfg.magic ∧ bufRead d.fb 2 = d.cfg.version
        ∧ (memRead16 d.fb 3).toNat ≤ d.cfg.maxPayloadBytes.toNat
        ∧ d.fb.length = 9 + (memRead16 d.fb 3).toNat
        ∧ memRead16 d.fb (7 + (memRead16 d.fb 3).toNat) = d.cfg.ender
        ∧ crc16 ((d.fb.drop 7).take (memRead16 d.fb 3).toNat) = memRead16 d.fb 5
        ∧ d.finalize = d.success (memRead16 d.fb 3).toNat) := by
  unfold Decoder.finalize
  dsimp only
  split
  · exact .inl ⟨_, by decide, rfl⟩
  split
  · exact .inl ⟨_, by decide, rfl⟩
  split
  · exact .inl ⟨_, by decide, rfl⟩
  split
  · exact .inl ⟨_, by decide, rfl⟩
  split
  · exact .inl ⟨_, by decide, rfl⟩
  split
  · exact .inl ⟨_, by decide, rfl⟩
  split
  · exact .inl ⟨_, by decide, rfl⟩
  · refine .inr ⟨by omega, by simp_all, by simp_all, by omega, by simp_all, by simp_all, by simp_all, rfl⟩

/-- Everything `CheckSize()` can do. -/
theorem Decoder.checkSize_cases (d : Decoder) :
    (d.expectedLen.toNat < d.fb.length ∧ d.checkSize = (d.abort, none))
    ∨ (d.fb.length = d.expectedLen.toNat ∧ d.checkSize = d.finalize)
    ∨ (d.fb.length < d.expectedLen.toNat ∧ d.checkSize = (d, none)) := by
  unfold Decoder.checkSize
  split
  · exact .inl ⟨by assumption, rfl⟩
  split
  · exact .inr (.inl ⟨by assumption, rfl⟩)
  · exact .inr (.inr ⟨by omega, rfl⟩)

/-- Everything that can follow a stored byte. -/
theorem Decoder.afterByte_cases (d : Decoder) :
    (d.fb.length = 5 ∧ d.cfg.maxPayloadBytes.toNat < (memRead16 d.fb 3).toNat
        ∧ d.afterByte = (d.reject .lengthViolations, none))
    ∨ (d.fb.length = 5 ∧ (memRead16 d.fb 3).toNat ≤ d.cfg.maxPayloadBytes.toNat
        ∧ d.afterByte = (d.acceptLength (memRead16 d.fb 3).toNat).checkSize)
    ∨ (d.fb.length ≠ 5 ∧ d.lengthKnown = true ∧ d.afterByte = d.checkSize)
    ∨ (d.fb.length ≠ 5 ∧ d.lengthKnown = false ∧ d.afterByte = (d, none)) := by
  unfold Decoder.afterByte
  split
  · dsimp only
    split
    · exact .inl ⟨by assumption, by assumption, rfl⟩
    · exact .inr (.inl ⟨by assumption, by omega, rfl⟩)
  · split
    · exact .inr (.inr (.inl ⟨by assumption, by assumption, rfl⟩))
    · exact .inr (.inr (.inr ⟨by assumption, by simp_all, rfl⟩))

/-- Everything `handleSymbol(s)` can do: collect the symbol, overflow, or store the completed byte. -/
theorem Decoder.handleSymbol_cases (d : Decoder) (s : Sym) :
    (d.bitsFilled + 2 ≠ 8 ∧ d.handleSymbol s = (d.shiftIn s, none))
    ∨ (d.bitsFilled + 2 = 8 ∧ 521 ≤ d.fb.length ∧ d.handleSymbol s = ((d.shiftIn s).abort, none))
    ∨ (d.bitsFilled + 2 = 8 ∧ d.fb.length < 521
        ∧ d.handleSymbol s = Decoder.afterByte
            { d with fb := d.fb ++ [(d.currentByte <<< 2) ||| s.setWidth 8], currentByte := 0, bitsFilled := 0 }) := by
  unfold Decoder.handleSymbol
  dsimp only
  split
  · rename_i h
    by_cases hf : d.fb.length < 521
    · refine .inr (.inr ⟨h, hf, ?_⟩)
      simp [bufAppend, Config.frameCap, hf]
    · refine .inr (.inl ⟨h, by omega, ?_⟩)
      simp [bufAppend, Config.frameCap, hf]
  · exact .inl ⟨by assumption, rfl⟩

/-! ## The step of DEC.FEED -/

/-- A disabled decoder: nothing happens. -/
theorem Decoder.feed_of_invalid {d : Decoder} (h : d.valid = false) (l : LightLevel) (t : Duration) :
    d.feed l t = (d, none) := by
  simp [Decoder.feed, h]

theorem Decoder.feed_of_timingInvalid {d : Decoder} {l : LightLevel} {t : Duration} (hv : d.valid = true)
    (ht : timingInvalid d.cfg t = true) : d.feed l t = (d.stepTimingInvalid l (unitsOf d.cfg t), none) := by
  simp [Decoder.feed, hv, ht]

theorem Decoder.feed_of_idle {d : Decoder} {l : LightLevel} {t : Duration} (hv : d.valid = true)
    (ht : timingInvalid d.cfg t = false) (hs : d.state = .idle) :
    d.feed l t = (d.stepIdle l (unitsOf d.cfg t), none) := by
  simp [Decoder.feed, hv, ht, hs]

theorem Decoder.feed_of_waitSpace {d : Decoder} {l : LightLevel} {t : Duration} (hv : d.valid = true)
    (ht : timingInvalid d.cfg t = false) (hs : d.state = .waitSpace) :
    d.feed l t = (d.stepWaitSpace l (unitsOf d.cfg t), none) := by
  simp [Decoder.feed, hv, ht, hs]

theorem Decoder.feed_of_readMark {d : Decoder} {l : LightLevel} {t : Duration} (hv : d.valid = true)
    (ht : timingInvalid d.cfg t = false) (hs : d.state = .readMark) :
    d.feed l t = (d.stepReadMark l (unitsOf d.cfg t), none) := by
  simp [Decoder.feed, hv, ht, hs]

theorem Decoder.feed_of_readSpace {d : Decoder} {l : LightLevel} {t : Duration} (hv : d.valid = true)
    (ht : timingInvalid d.cfg t = false) (hs : d.state = .readSpace) :
    d.feed l t = d.stepReadSpace l (unitsOf d.cfg t) := by
  simp [Decoder.feed, hv, ht, hs]

/-- An accepted space: the symbol is handled, and ReadSpace goes back to ReadMark. -/
theorem Decoder.stepReadSpace_of_accepted {d : Decoder} {u : Nat} (h : spaceAccepted d.cfg u = true) :
    d.stepReadSpace .off u
      = ((d.handleSymbol d.pendingSymbol).1.backToReadMark, (d.handleSymbol d.pendingSymbol).2) := by
  simp [Decoder.stepReadSpace, h]

theorem Decoder.stepReadSpace_of_rejected {d : Decoder} {l : LightLevel} {u : Nat}
    (h : ¬ (l = .off ∧ spaceAccepted d.cfg u = true)) :
    d.stepReadSpace l u = ((d.reject .durationRejections).rearm l u, none) := by
  simp [Decoder.stepReadSpace, h]

theorem spaceAccepted_iff (cfg : ProtocolConfig) (u : Nat) :
    spaceAccepted cfg u = true ↔ unitsMatch cfg u cfg.separatorUnits.toNat = true ∨ cfg.separatorUnits.toNat ≤ u := by
  simp [spaceAccepted]

/-- `DEC.FEED` with a level that is not reserved. -/
theorem execDecFeed_of_level {c : LevelCode} {l : LightLevel} (h : levelOfCode c = some l) (t : Duration) (s : State) :
    execDecFeed c t s
      = .next (((s.withDec (s.dec.feed l t).1).deliver (s.dec.feed l t).2).respond .ok .none) := by
  simp [execDecFeed, h]

end Sys2Proof.Machine
end

