-- ==== Sys2Proof/Laws/Encoder.lean ====
section
/-! SUPPORT. What the encoder's steps do: the buffers never fill, so that each step is plain concatenation
(spec/43_encoder.md R137). -/

namespace Sys2Proof.Machine

@[simp] theorem frameBytes_length (cfg : ProtocolConfig) (payload : List Byte) :
    (frameBytes cfg payload).length = 9 + payload.length := by
  simp [frameBytes, bytesOf16]; omega

@[simp] theorem preambleChanges_length (cfg : ProtocolConfig) : (preambleChanges cfg).length = 2 := rfl

@[simp] theorem gapChanges_length (cfg : ProtocolConfig) : (gapChanges cfg).length = 1 := rfl

@[simp] theorem byteChanges_length (cfg : ProtocolConfig) (b : Byte) : (byteChanges cfg b).length = 8 := by
  simp [byteChanges, symbolsOfByte, symbolChanges]

/-- The changes of a row of bytes are eight each. -/
theorem flatMap_byteChanges_length (cfg : ProtocolConfig) (bs : List Byte) :
    (bs.flatMap (byteChanges cfg)).length = 8 * bs.length := by
  induction bs with
  | nil => rfl
  | cons b bs ih => simp [ih]; omega

/-- Step 1 of `ENC.ENCODE` for a payload that passed the length check. -/
theorem serializeFrame_of_le (cfg : ProtocolConfig) {payload : List Byte} (h : payload.length ≤ 512) :
    serializeFrame cfg payload = some (frameBytes cfg payload) := by
  have := bufAppendAll_of_le (cap := Config.frameCap) (frameBytes cfg payload) []
    (by simp [Config.frameCap]; omega)
  simpa [serializeFrame] using this

/-- Step 3 of `ENC.ENCODE` while the output fits. -/
theorem emitBytes_of_le (cfg : ProtocolConfig) (bs : List Byte) :
    ∀ out : List SignalChange, out.length + 8 * bs.length ≤ 4200 →
      emitBytes cfg out bs = some (out ++ bs.flatMap (byteChanges cfg)) := by
  induction bs with
  | nil => intro out _; simp [emitBytes]
  | cons b bs ih =>
    intro out h
    simp only [List.length_cons] at h
    have h1 := bufAppendAll_of_le (cap := Config.maxSignalChanges) (byteChanges cfg b) out
      (by simp [Config.maxSignalChanges]; omega)
    have h2 := ih (out ++ byteChanges cfg b) (by simp; omega)
    simp [emitBytes, h1, h2]

/-- Steps 2 to 4 of `ENC.ENCODE` for a frame whose changes fit. -/
theorem emitFrame_of_le (cfg : ProtocolConfig) {frame : List Byte} (h : frame.length ≤ 521) :
    emitFrame cfg frame
      = some (preambleChanges cfg ++ frame.flatMap (byteChanges cfg) ++ gapChanges cfg) := by
  have h1 := bufAppendAll_of_le (cap := Config.maxSignalChanges) (preambleChanges cfg) []
    (by simp [Config.maxSignalChanges])
  have h2 := emitBytes_of_le cfg frame (preambleChanges cfg) (by simp; omega)
  have h3 := bufAppendAll_of_le (cap := Config.maxSignalChanges) (gapChanges cfg)
    (preambleChanges cfg ++ frame.flatMap (byteChanges cfg))
    (by rw [List.length_append, flatMap_byteChanges_length]; simp [Config.maxSignalChanges]; omega)
  simp only [List.nil_append] at h1
  simp only [emitFrame, h1, h2, h3]

theorem encodeCap_le (cfg : ProtocolConfig) : encodeCap cfg ≤ 512 := by
  simp [encodeCap, Config.maxPayload]

/-- `ENC.ENCODE` past its two checks always succeeds, with these buffers. -/
theorem encodePayloadBuffers_of_le {e : Encoder} {payload : List Byte} (hv : e.valid = true)
    (hl : payload.length ≤ encodeCap e.cfg) :
    encodePayloadBuffers e payload = some (frameBytes e.cfg payload,
      preambleChanges e.cfg ++ (frameBytes e.cfg payload).flatMap (byteChanges e.cfg) ++ gapChanges e.cfg) := by
  have hc := encodeCap_le e.cfg
  have h1 := serializeFrame_of_le e.cfg (payload := payload) (by omega)
  have h2 := emitFrame_of_le e.cfg (frame := frameBytes e.cfg payload) (by simp; omega)
  simp [encodePayloadBuffers, hv, h1, h2, Nat.not_lt.2 hl]

/-- `ENC.ENCODE` jumps to `fail` exactly on an invalid configuration or a payload above the cap. -/
theorem encodePayloadBuffers_eq_none {e : Encoder} {payload : List Byte} :
    encodePayloadBuffers e payload = none ↔ e.valid = false ∨ encodeCap e.cfg < payload.length := by
  by_cases hv : e.valid = true
  · by_cases hl : payload.length ≤ encodeCap e.cfg
    · simp [encodePayloadBuffers_of_le hv hl, hv, Nat.not_lt.2 hl]
    · simp [encodePayloadBuffers, hv, Nat.lt_of_not_le hl]
  · simp [encodePayloadBuffers, hv]

end Sys2Proof.Machine
end

