-- ==== Sys2Proof/Laws/PerInstr.lean ====
section
/-! SUPPORT. Statements for all instructions, one lemma per constructor. -/

/-- The opcode in an instruction's word is that of its row, and stands for that row alone. -/
def Sys2Proof.Laws.OpcodeOfEncoding.Statement (i : Sys2Proof.Instr) : Prop :=
  Sys2Proof.Op.ofCode (Sys2Proof.opField (Sys2Proof.encode i).word) = some i.op

namespace Sys2Proof.Laws.OpcodeOfEncoding

theorem of_instr (i : Instr) : Statement i := by
  rw [Statement, opField_encode, Op.ofCode_code]

theorem crcInit : Statement .crcInit := of_instr _
theorem crcByte (byte : Byte) : Statement (.crcByte byte) := of_instr _
theorem crcRead : Statement .crcRead := of_instr _
theorem symEnc (sym : Sym) : Statement (.symEnc sym) := of_instr _
theorem symDec (level : LevelCode) : Statement (.symDec level) := of_instr _
theorem encConfigure (cfg : ProtocolConfig) : Statement (.encConfigure cfg) := of_instr _
theorem encValid : Statement .encValid := of_instr _
theorem encEncode (payload : List Byte) : Statement (.encEncode payload) := of_instr _
theorem decConfigure (cfg : ProtocolConfig) : Statement (.decConfigure cfg) := of_instr _
theorem decValid : Statement .decValid := of_instr _
theorem decFeed (level : LevelCode) (duration : Duration) : Statement (.decFeed level duration) := of_instr _
theorem decReset : Statement .decReset := of_instr _
theorem decStats : Statement .decStats := of_instr _
theorem decConfig : Statement .decConfig := of_instr _
theorem decSetcb (en : Bool) (ctx : Context) : Statement (.decSetcb en ctx) := of_instr _

end Sys2Proof.Laws.OpcodeOfEncoding
end

