-- ==== Sys2Proof/Laws/Step.lean ====
section
/-! SUPPORT. The fetch of a command, and what a step can do. -/

namespace Sys2Proof.Machine

theorem takeCommand_eq_none {s : State} : takeCommand s = none ↔ s.port = [] := by
  unfold takeCommand; split <;> simp_all

theorem takeCommand_eq_some {s : State} {p : Packet} {t : State} :
    takeCommand s = some (p, t) ↔ ∃ rest, s.port = p :: rest ∧ t = { s with port := rest } := by
  unfold takeCommand; split <;> simp_all [eq_comm]

/-- Everything a step that answers a next state can have done: idle, run the decoded operation, or turn an undefined opcode
away. -/
theorem step_eq_next {s t : State} (h : step s = .next t) :
    (s.port = [] ∧ t = s)
    ∨ ∃ p rest, s.port = p :: rest ∧
        ((∃ i, decode p = .ok i ∧ exec i { s with port := rest } = .next t)
        ∨ (∃ op, decode p = .error (.undefinedOpcode op) ∧ t = State.illegal { s with port := rest } .none)) := by
  unfold step at h
  split at h
  · rename_i hn
    cases h
    exact .inl ⟨takeCommand_eq_none.1 hn, rfl⟩
  · rename_i p s' hs
    obtain ⟨rest, hp, rfl⟩ := takeCommand_eq_some.1 hs
    refine .inr ⟨p, rest, hp, ?_⟩
    split at h
    · exact .inl ⟨_, by assumption, h⟩
    · rename_i e he
      cases e with
      | undefinedOpcode op => cases h; exact .inr ⟨op, he, rfl⟩
      | payloadMismatch a b => cases h

/-- A packet presented is the next command taken, and taking it gives the state back. -/
theorem takeCommand_present (s : State) (p : Packet) : takeCommand (s.present p) = some (p, s) := rfl

/-- The port takes no part in what an operation does. -/
theorem exec_withPort (i : Instr) (s : State) (q : List Packet) :
    exec i { s with port := q } = match exec i s with
      | .next t => .next { t with port := q }
      | .fault r => .fault r
      | .refused r => .refused r := by
  cases i with
  | symDec l => simp only [exec, execSymDec]; split <;> [rfl; (split <;> rfl)]
  | decFeed l d =>
    simp only [exec, execDecFeed]
    split
    · rfl
    · rename_i lv h
      simp only [State.withDec, State.respond]
      cases (s.dec.feed lv d).2 <;> rfl
  | encEncode p => simp only [exec, execEncEncode]; split <;> rfl
  | _ => rfl

/-- One step more of a run, on any machine. -/
theorem run_succ_of_step {M : Host.Core} {n : Nat} {s t : M.State} (h : M.step s = .next t) :
    M.run (n + 1) s = M.run n t := by
  rw [Host.Core.run, h]

end Sys2Proof.Machine
end

