-- ==== Sys2Proof/Laws/Wire.lean ====
section
/-! SUPPORT. The machine's procedures and the plain-number terms of Safety are the same: the frame and its changes, the
checks of finalization, the abort procedure. -/

namespace Sys2Proof.Machine

/-! ## The frame and its changes -/

theorem bytesOf16_eq_bigEndian (x : BitVec 16) : bytesOf16 x = bigEndian x.toNat := by
  simp only [bytesOf16, bigEndian, List.cons.injEq, and_true]
  constructor <;> apply BitVec.eq_of_toNat_eq <;> simp [Nat.shiftRight_eq_div_pow]

theorem frameBytes_eq_wireFrame (cfg : ProtocolConfig) {payload : List Byte} (h : payload.length < 65536) :
    frameBytes cfg payload = wireFrame cfg payload := by
  have hl : (BitVec.ofNat 16 payload.length).toNat = payload.length := by simp; omega
  simp [frameBytes, wireFrame, bytesOf16_eq_bigEndian, hl]

theorem levelCode_symbolToColor (s : Sym) : levelCode (symbolToColor s) = colourCode s.toNat := by
  revert s; decide

theorem byteChanges_eq_wireByte (cfg : ProtocolConfig) (b : Byte) : byteChanges cfg b = wireByte cfg b := by
  have h : ∀ k, (b.extractLsb' k 2).toNat = b.toNat / 2 ^ k % 4 := by
    intro k; simp [Nat.shiftRight_eq_div_pow]
  simp only [byteChanges, symbolsOfByte, symbolChanges, wireByte, levelCode_symbolToColor, h, List.flatMap_cons,
    List.flatMap_nil]
  rfl

theorem changes_eq_wireChanges (cfg : ProtocolConfig) (frame : List Byte) :
    preambleChanges cfg ++ frame.flatMap (byteChanges cfg) ++ gapChanges cfg = wireChanges cfg frame := by
  rw [show byteChanges cfg = wireByte cfg from funext (byteChanges_eq_wireByte cfg)]
  rfl

@[simp] theorem wireFrame_length (cfg : ProtocolConfig) (payload : List Byte) :
    (wireFrame cfg payload).length = 9 + payload.length := by
  simp [wireFrame, bigEndian]; omega

@[simp] theorem wireChanges_length (cfg : ProtocolConfig) (frame : List Byte) :
    (wireChanges cfg frame).length = 8 * frame.length + 3 := by
  rw [← changes_eq_wireChanges]
  simp only [List.length_append, flatMap_byteChanges_length, preambleChanges_length, gapChanges_length]
  omega

/-! ## The abort procedure -/

theorem Decoder.abort_eq_cleared (d : Decoder) :
    d.abort = clearedDecoder d .idle (abortStats d.frameActive d.stats) := by
  rw [Decoder.abort_eq]; rfl

theorem Decoder.reject_eq_cleared (d : Decoder) (k : Counter) :
    d.reject k = clearedDecoder d .idle (abortStats d.frameActive (d.stats.bump k)) := by
  rw [Decoder.reject_eq]; rfl

theorem isPreambleMark_iff {cfg : ProtocolConfig} {l : LightLevel} {t : Duration} :
    isPreambleMark cfg l (unitsOf cfg t) = true ↔ PreambleMark cfg (levelCode l) t := by
  simp [isPreambleMark, PreambleMark]

/-- A rejection and its re-arm, together. -/
theorem Decoder.reject_rearm_eq_cleared (d : Decoder) (k : Counter) (l : LightLevel) (t : Duration) :
    (d.reject k).rearm l (unitsOf d.cfg t)
      = clearedDecoder d (stateAfterReject d.cfg (levelCode l) t) (abortStats d.frameActive (d.stats.bump k)) := by
  rw [Decoder.rearm_eq, Decoder.reject_eq]
  simp only [stateAfterReject, ← isPreambleMark_iff]
  rfl

/-! ## The checks of finalization -/

theorem bufRead_toNat_eq_byteAt {l : List Byte} {i : Nat} (h : i < l.length) : (bufRead l i).toNat = byteAt l i := by
  simp [bufRead, byteAt, h]

theorem memRead16_toNat_eq_fieldAt {l : List Byte} {i : Nat} (h : i + 1 < l.length) :
    (memRead16 l i).toNat = fieldAt l i := by
  rw [memRead16_toNat, bufRead_toNat_eq_byteAt h, bufRead_toNat_eq_byteAt (by omega)]; rfl

/-- `Finalize()` by the first check that fails: its counter and no event, or the success of the frame. -/
theorem Decoder.finalize_eq_firstFailure (d : Decoder) :
    d.finalize = match firstFailure d.cfg d.fb with
      | some k => (d.reject k, none)
      | none => d.success (memRead16 d.fb 3).toNat := by
  unfold Decoder.finalize firstFailure
  simp only [frameChecks]
  by_cases h0 : d.fb.length < 9
  · simp [h0]
  have h0' : 9 ≤ d.fb.length := by omega
  have m0 := memRead16_toNat_eq_fieldAt (l := d.fb) (i := 0) (by omega)
  have m3 := memRead16_toNat_eq_fieldAt (l := d.fb) (i := 3) (by omega)
  have m5 := memRead16_toNat_eq_fieldAt (l := d.fb) (i := 5) (by omega)
  have b2 := bufRead_toNat_eq_byteAt (l := d.fb) (i := 2) (by omega)
  have t : ∀ {n} (a b : BitVec n), a = b ↔ a.toNat = b.toNat := fun a b => BitVec.toNat_inj.symm
  simp only [ne_eq, t, m0, m3, m5, b2, if_neg h0]
  by_cases h1 : fieldAt d.fb 0 = d.cfg.magic.toNat
  swap; · simp [h0', h1]
  by_cases h2 : byteAt d.fb 2 = d.cfg.version.toNat
  swap; · simp [h0', h1, h2]
  by_cases h3 : fieldAt d.fb 3 ≤ d.cfg.maxPayloadBytes.toNat
  swap; · simp [h0', h1, h2, h3, Nat.lt_of_not_le h3]
  by_cases h4 : d.fb.length = 9 + fieldAt d.fb 3
  swap; · simp [h0', h1, h2, h3, h4, Nat.not_lt.2 h3]
  have m7 := memRead16_toNat_eq_fieldAt (l := d.fb) (i := 7 + fieldAt d.fb 3) (by omega)
  simp only [m7]
  by_cases h5 : fieldAt d.fb (7 + fieldAt d.fb 3) = d.cfg.ender.toNat
  swap; · simp only [h1, h2, h5, ← h4, Nat.not_lt.2 h3, List.find?]; simp [h0', h3]
  by_cases h6 : (crc16 ((d.fb.drop 7).take (fieldAt d.fb 3))).toNat = fieldAt d.fb 5
  · simp only [h1, h2, h5, ← h4, Nat.not_lt.2 h3, List.find?, h6]; simp [h0', h3]
  · simp only [h1, h2, h5, ← h4, Nat.not_lt.2 h3, List.find?, h6]; simp [h0', h3]

end Sys2Proof.Machine
end

