-- ==== Sys2Proof/Tests/Slice0.lean ====
section
/-! SUPPORT. The model's own tests: the smoke test of WellFormed, a word of every operation decoded, single steps with results
from the spec, and a witness for every statement with hypotheses. The section named in a comment is where the expected
result stands; "vectors" is spec/95_test_vectors.md. -/

open Sys2Proof Sys2Proof.Machine

namespace Sys2Proof.Tests

/-! ## Helpers -/

/-- The state after an operation, if it answers one. -/
def after (i : Instr) (s : State) : Option State :=
  match exec i s with
  | .next t => some t
  | .fault _ => none
  | .refused _ => none

/-- The state after a step, if it answers one. -/
def afterStep (s : State) : Option State :=
  match step s with
  | .next t => some t
  | .fault _ => none
  | .refused _ => none

/-- What the operation puts out from the state after reset with the given decoder. -/
def outsOf (i : Instr) (s : State) : Option (List Output) := (after i s).map fun t => t.outs

/-- The state after reset with another decoder. -/
def withDecoder (d : Decoder) : State := { State.reset with dec := d }

/-- A default decoder in the given state of a frame, nothing received yet. -/
def inFrame (st : DecState) : Decoder := { Decoder.reset with state := st, frameActive := true }

/-- A default decoder in ReadSpace that needs one more symbol for its byte. -/
def lastSymbol (fb : List Byte) (current : Byte) (pending : Sym) (known : Bool) (expected : BitVec 10) : Decoder :=
  { inFrame .readSpace with
    fb := fb, currentByte := current, bitsFilled := 6, pendingSymbol := pending, lengthKnown := known,
    expectedLen := expected }

/-- The empty payload's frame without its last byte, that byte's last symbol pending (vectors P2, step 72: the next Off ends
the frame). -/
def beforeEnd : Decoder := lastSymbol [0xC3, 0x9A, 0x01, 0x00, 0x00, 0xFF, 0xFF, 0x51] 0x2A 2 true 9

/-- The record with one field changed. -/
def withMaxPayload (n : BitVec 16) : ProtocolConfig := { Config.defaults with maxPayloadBytes := n }

/-! ## WellFormed: an ill-formed term for its one check -/

theorem test_wellFormed_refuses_65536_bytes : WellFormed (.encEncode (List.replicate 65536 0)) = false := by
  rw [WellFormed, List.length_replicate]; decide

theorem test_wellFormed_takes_65535_bytes : WellFormed (.encEncode (List.replicate 65535 0)) = true := by
  rw [WellFormed, List.length_replicate]; decide

/-! ## Decoding: the command words of vectors 2.8, written out -/

theorem test_decode_crcInit : decodeTableWord 184 0x1000000000000000000000000000000000000000000000 = some .crcInit := by
  decide

theorem test_decode_crcByte :
    decodeTableWord 184 0x1100000000000000000000000000000000000000000069 = some (.crcByte 0x69) := by
  decide

theorem test_decode_crcRead : decodeTableWord 184 0x1200000000000000000000000000000000000000000000 = some .crcRead := by
  decide

theorem test_decode_symEnc :
    decodeTableWord 184 0x2000000000000000000000000000000000000000000002 = some (.symEnc 2) := by
  decide

theorem test_decode_symDec :
    decodeTableWord 184 0x2100000000000000000000000000000000000000000004 = some (.symDec 4) := by
  decide

theorem test_decode_encConfigure :
    decodeTableWord 184 0x300151AAC39A020100C801000C00010001000800100258 = some (.encConfigure (withMaxPayload 513)) := by
  decide

theorem test_decode_encValid : decodeTableWord 184 0x3100000000000000000000000000000000000000000000 = some .encValid := by
  decide

/-- Payload bytes 48 69 beside the word. -/
theorem test_decode_encEncode :
    decode { word := 0x3200000000000000000000000000000000000000000002, payload := [0x48, 0x69] }
      = .ok (.encEncode [0x48, 0x69]) := by
  decide

theorem test_decode_decConfigure :
    decodeTableWord 184 0x400151AAC39A020000C801000C00010001000800100258 = some (.decConfigure Config.defaults) := by
  decide

theorem test_decode_decValid : decodeTableWord 184 0x4100000000000000000000000000000000000000000000 = some .decValid := by
  decide

theorem test_decode_decFeed :
    decodeTableWord 184 0x42000000000000000000000000000000000004000004B0 = some (.decFeed 4 1200) := by
  decide

theorem test_decode_decReset : decodeTableWord 184 0x4300000000000000000000000000000000000000000000 = some .decReset := by
  decide

theorem test_decode_decStats : decodeTableWord 184 0x4400000000000000000000000000000000000000000000 = some .decStats := by
  decide

theorem test_decode_decConfig :
    decodeTableWord 184 0x4500000000000000000000000000000000000000000000 = some .decConfig := by
  decide

theorem test_decode_decSetcb :
    decodeTableWord 184 0x4600000000000000000000000000000000000100001234 = some (.decSetcb true 0x1234) := by
  decide

/-- Illegal opcodes of vectors 2.8. -/
theorem test_decode_undefined :
    ∀ op ∈ ([0x00, 0x13, 0x47, 0xFF] : List (BitVec 8)),
      decode { word := op ++ (0 : ArgField), payload := [] } = .error (.undefinedOpcode op) := by
  decide

/-- A word placed by withFetchWord is what the next step runs. -/
theorem test_step_runs_fetched_word :
    (afterStep (State.reset.withFetchWord 184 0x1100000000000000000000000000000000000000000048)).map
      (fun t => t.crc.acc) = some 0x283C := by
  decide

/-- The word of `ENC.ENCODE`, with the payload bytes that the number gives no bits at 0 (vectors E1: 75 changes for no bytes). -/
theorem test_step_runs_fetched_encode :
    (afterStep (State.reset.withFetchWord 184 0x3200000000000000000000000000000000000000000001)).map
      (fun t => t.enc.out.length) = some 83 := by
  decide

/-! ## Single steps -/

/-- R93. -/
theorem test_crcInit : (after .crcInit { State.reset with crc := { acc := 0x1234 } }).map (fun t => t.crc.acc)
    = some 0xFFFF := by
  decide

/-- Vectors P1, the second byte of "Hi". -/
theorem test_crcByte : (after (.crcByte 0x69) { State.reset with crc := { acc := 0x283C } }).map (fun t => t.crc.acc)
    = some 0x64E5 := by
  decide

/-- R94: a byte of zero changes the register. -/
theorem test_crcByte_zero : (after (.crcByte 0) State.reset).map (fun t => t.crc.acc) = some 0xE1F0 := by
  decide

/-- Vectors P1. -/
theorem test_crcRead : outsOf .crcRead { State.reset with crc := { acc := 0x64E5 } }
    = some [.response { status := .ok, data := .crc 0x64E5 }] := by
  decide

/-- R99, the check value of "123456789". -/
theorem test_crc16_check_value :
    crc16 [0x31, 0x32, 0x33, 0x34, 0x35, 0x36, 0x37, 0x38, 0x39] = 0x29B1 := by
  decide +kernel

/-- R102: Blue is code 4. -/
theorem test_symEnc : outsOf (.symEnc 2) State.reset = some [.response { status := .ok, data := .level 4 }] := by
  decide

/-- R103: White is symbol 3. -/
theorem test_symDec_white : outsOf (.symDec 1) State.reset = some [.response { status := .ok, data := .sym 3 }] := by
  decide

/-- R103: the first reserved code. -/
theorem test_symDec_reserved :
    outsOf (.symDec 5) State.reset = some [.response { status := .illegal, data := .sym 0 }] := by
  decide

/-- R115, its example: 513 is stored and the configuration is invalid. -/
theorem test_encConfigure_invalid :
    (after (.encConfigure (withMaxPayload 513)) State.reset).map (fun t => (t.enc.valid, t.enc.cfg.maxPayloadBytes))
      = some (false, 513) := by
  decide

/-- R65 (c): a reserved colour code is stored. -/
theorem test_encConfigure_reserved_colour :
    (after (.encConfigure { Config.defaults with preambleColor := 5 }) State.reset).map
      (fun t => (t.enc.valid, t.enc.cfg.preambleColor)) = some (false, 5) := by
  decide

/-- R116, its example. -/
theorem test_encValid : outsOf .encValid State.reset = some [.response { status := .ok, data := .valid true }] := by
  decide

/-- R132, its example: the frame of "Hi". -/
theorem test_encEncode_frame : (after (.encEncode [0x48, 0x69]) State.reset).map (fun t => t.enc.fb)
    = some [0xC3, 0x9A, 0x01, 0x00, 0x02, 0x64, 0xE5, 0x48, 0x69, 0x51, 0xAA] := by
  decide +kernel

/-- R131, its example: the first three changes of the empty payload, and R135: the gap behind the last separator. -/
theorem test_encEncode_changes :
    (after (.encEncode []) State.reset).map (fun t => (t.enc.out.take 3, t.enc.out.drop 73))
      = some ([{ level := 1, duration := 9600 }, { level := 0, duration := 4800 }, { level := 1, duration := 600 }],
          [{ level := 0, duration := 600 }, { level := 0, duration := 7200 }]) := by
  decide

/-- R117: a frame is dropped, no counter changes, the callback stays. -/
theorem test_decConfigure_drops_frame :
    (after (.decConfigure Config.defaults) (withDecoder { beforeEnd with cbEn := true, cbCtx := 7 })).map (fun t => t.dec)
      = some { Decoder.reset with cbEn := true, cbCtx := 7 } := by
  decide

/-- R118. -/
theorem test_decValid : outsOf .decValid (withDecoder { Decoder.reset with valid := false })
    = some [.response { status := .ok, data := .valid false }] := by
  decide

/-- R152, R153: 16.5 units of the preamble's colour are counted and arm WaitSpace. -/
theorem test_decFeed_rearm :
    (after (.decFeed 1 9900) State.reset).map (fun t => (t.dec.state, t.dec.stats.durationRejections))
      = some (.waitSpace, 1) := by
  decide

/-- Vectors P2, step 73: the frame of the empty payload is delivered before the response. -/
theorem test_decFeed_delivers :
    outsOf (.decFeed 0 600) (withDecoder { beforeEnd with cbEn := true, cbCtx := 0x1234 })
      = some [.deliver { payload := [], length := 0, ctx := 0x1234 }, okNone] := by
  decide

/-- R166, its example. -/
theorem test_decReset : (after .decReset (withDecoder beforeEnd)).map (fun t => t.dec) = some Decoder.reset := by
  decide

/-- R69 and vectors 2.8, the DEC.STATS word with fields 0, 6 and 8 at 1, 3 and 2. -/
theorem test_decStats :
    outsOf .decStats (withDecoder { Decoder.reset with
        stats := { Stats.zero with framesDecoded := 1, durationRejections := 3, truncatedFrames := 2 } })
      = some [.response { status := .ok
                          data := .stats 0x000000020000000000000003000000000000000000000000000000000000000000000001 }] := by
  decide

/-- R68 and vectors 2.8: the default word. -/
theorem test_decConfig : outsOf .decConfig State.reset
    = some [.response { status := .ok, data := .cfg 0x0151AAC39A020000C801000C00010001000800100258 }] := by
  decide

/-- R168. -/
theorem test_decSetcb : (after (.decSetcb true 0x1234) State.reset).map (fun t => (t.dec.cbEn, t.dec.cbCtx))
    = some (true, 0x1234) := by
  decide

/-- R113: a tie of the tolerance rounds up (drift 100, E = 25). -/
theorem test_tolerance_tie : tolerance { Config.defaults with allowedDriftPermille := 100 } 25 = 3 := by
  decide

/-! ## Witnesses: each shows operands and a state that meet all hypotheses of the statement it is named after -/

/-- The shortest and the longest payload. -/
theorem witness_DecodeOfEncode :
    WellFormed (.encEncode []) = true ∧ WellFormed (.encEncode (List.replicate 65535 0xFF)) = true := by
  refine ⟨rfl, ?_⟩
  rw [WellFormed, List.length_replicate]; decide

theorem witness_DecodedInstrReencodes :
    decode { word := 0x21FFFFFFFFFFFFFFFFFFFFFFFFFFFFFFFFFFFFFFFFFFFF, payload := [] } = .ok (.symDec 7) := by
  decide

theorem witness_UnnamedOperandBitsIgnored :
    opField 0x21FFFFFFFFFFFFFFFFFFFFFFFFFFFFFFFFFFFFFFFFFFF8 = Op.symDec.code
      ∧ opField 0x2100000000000000000000000000000000000000000000 = Op.symDec.code
      ∧ argField 0x21FFFFFFFFFFFFFFFFFFFFFFFFFFFFFFFFFFFFFFFFFFF8 &&& namedBits .symDec
          = argField 0x2100000000000000000000000000000000000000000000 &&& namedBits .symDec := by
  decide

/-- The opcodes next to the map's. -/
theorem witness_UndefinedOpcodeAnswersIllegal :
    ∀ op ∈ ([0x00, 0x0F, 0x13, 0x1F, 0x22, 0x2F, 0x33, 0x3F, 0x47, 0xFF] : List (BitVec 8)),
      (State.reset.present { word := op ++ (0 : ArgField), payload := [] }).port
          = { word := op ++ (0 : ArgField), payload := [] } :: []
        ∧ opField (op ++ (0 : ArgField)) ∉
          ([0x10, 0x11, 0x12, 0x20, 0x21, 0x30, 0x31, 0x32, 0x40, 0x41, 0x42, 0x43, 0x44, 0x45, 0x46] :
            List (BitVec 8)) := by
  decide

theorem witness_StepRunsDecodedInstr :
    (State.reset.present (encode (.crcByte 0x48))).port = encode (.crcByte 0x48) :: []
      ∧ decode (encode (.crcByte 0x48)) = .ok (.crcByte 0x48) := by
  decide

theorem witness_IdleBlockKeepsState : State.reset.port = [] := rfl

/-- A byte beside a word that takes none, and a missing byte. -/
theorem witness_StepStopsOnMalformedPacketOnly_stops :
    (opField (encode .crcInit).word = Op.crcInit.code
        ∧ ([0x00] : List Byte).length ≠ (if Op.crcInit = .encEncode then (encode .crcInit).word.toNat % 2 ^ 16 else 0))
      ∧ opField (encode (.encEncode [0x48])).word = Op.encEncode.code
        ∧ ([] : List Byte).length
          ≠ (if Op.encEncode = .encEncode then (encode (.encEncode [0x48])).word.toNat % 2 ^ 16 else 0) := by
  decide

/-- With no packet at the port no packet is malformed. -/
theorem witness_StepStopsOnMalformedPacketOnly_goes_on :
    ¬ (∃ (p : Packet) (rest : List Packet) (op : Op), State.reset.port = p :: rest ∧ opField p.word = op.code
      ∧ p.payload.length ≠ (if op = .encEncode then p.word.toNat % 2 ^ 16 else 0)) := by
  rintro ⟨p, rest, op, h, -⟩
  cases h

theorem witness_RunPerformsOperationsInOrder :
    ∀ i ∈ ([.crcInit, .encEncode [0x48], .decReset] : List Instr), WellFormed i = true := by
  decide

theorem witness_CrcDetectsOneWrongByte : (0x48 : Byte) ≠ 0x49 := by decide

/-- The least and the greatest reserved code. -/
theorem witness_SymDecReturnsSymbol : 5 ≤ (5 : LevelCode).toNat ∧ 5 ≤ (7 : LevelCode).toNat := by decide

theorem witness_SymbolTablesInverse : LightLevel.white ≠ .off := by decide

/-- The longest payload the default configuration takes, and the length field of a two-byte payload. -/
theorem witness_EncodeBuildsFrameAndChanges :
    State.reset.enc.valid = true
      ∧ (List.replicate 512 (0 : Byte)).length ≤ min State.reset.enc.cfg.maxPayloadBytes.toNat 512
      ∧ ([0x48, 0x69] : List Byte).length = (2 : ArgField).toNat % 2 ^ 16 := by
  rw [List.length_replicate]; decide

/-- One byte more than the cap, and an invalid configuration. -/
theorem witness_EncodeFailsCleanly :
    min State.reset.enc.cfg.maxPayloadBytes.toNat 512 < (List.replicate 513 (0 : Byte)).length
      ∧ ({ State.reset.enc with valid := false } : Encoder).valid = false := by
  rw [List.length_replicate]; decide

theorem witness_EncodeOutputShape :
    State.reset.enc.valid = true ∧ ([] : List Byte).length ≤ min State.reset.enc.cfg.maxPayloadBytes.toNat 512 := by
  decide

theorem witness_EmittedDurationsExact :
    State.reset.enc.valid = true ∧ validConfig State.reset.enc.cfg = true
      ∧ ([0x48, 0x69] : List Byte).length ≤ State.reset.enc.cfg.maxPayloadBytes.toNat := by
  decide

/-- The shortest duration of one unit; below it there is no unit (vectors 2.5). -/
theorem witness_QuantizerFormula :
    1 ≤ Config.defaults.unitDurationMicros.toNat ∧ 1 ≤ unitsOf Config.defaults 300 ∧ unitsOf Config.defaults 299 = 0 := by
  decide

/-- The greatest level with a meaning, and the least reserved code. -/
theorem witness_FeedReservedOrDisabledDoesNothing :
    5 ≤ (5 : LevelCode).toNat ∧ (4 : LevelCode).toNat ≤ 4 ∧ (withDecoder { Decoder.reset with valid := false }).dec.valid = false := by
  decide

/-- 479 and 721 µs, next to the window 480..720; in the middle of a frame. -/
theorem witness_FeedTimingInvalid :
    (1 : LevelCode).toNat ≤ 4 ∧ (withDecoder (inFrame .readMark)).dec.valid = true
      ∧ timingInvalid (withDecoder (inFrame .readMark)).dec.cfg 479 = true
      ∧ timingInvalid (withDecoder (inFrame .readMark)).dec.cfg 721 = true := by
  decide

/-- The shortest preamble mark, 13 units, and one unit less. -/
theorem witness_FeedInIdle :
    (1 : LevelCode).toNat ≤ 4 ∧ State.reset.dec.valid = true ∧ timingInvalid State.reset.dec.cfg 7800 = false
      ∧ timingInvalid State.reset.dec.cfg 7200 = false ∧ State.reset.dec.state = .idle
      ∧ PreambleMark State.reset.dec.cfg 1 7800 ∧ ¬ PreambleMark State.reset.dec.cfg 1 7200 := by
  decide

/-- The three branches: a preamble space of 10 units, another preamble mark, a space of 11 units. -/
theorem witness_FeedInWaitSpace :
    (0 : LevelCode).toNat ≤ 4 ∧ (1 : LevelCode).toNat ≤ 4
      ∧ (withDecoder { Decoder.reset with state := .waitSpace }).dec.valid = true
      ∧ (withDecoder { Decoder.reset with state := .waitSpace }).dec.state = .waitSpace
      ∧ timingInvalid Config.defaults 6000 = false ∧ unitsMatch Config.defaults (unitsOf Config.defaults 6000) 8 = true
      ∧ timingInvalid Config.defaults 9600 = false ∧ PreambleMark Config.defaults 1 9600
      ∧ timingInvalid Config.defaults 6600 = false
      ∧ unitsMatch Config.defaults (unitsOf Config.defaults 6600) 8 = false := by
  decide

/-- A symbol mark of 2 units, and one of 3 units, which is rejected. -/
theorem witness_FeedInReadMark :
    (4 : LevelCode).toNat ≤ 4 ∧ (withDecoder (inFrame .readMark)).dec.valid = true
      ∧ (withDecoder (inFrame .readMark)).dec.state = .readMark
      ∧ timingInvalid Config.defaults 1200 = false ∧ unitsMatch Config.defaults (unitsOf Config.defaults 1200) 1 = true
      ∧ timingInvalid Config.defaults 1800 = false
      ∧ unitsMatch Config.defaults (unitsOf Config.defaults 1800) 1 = false := by
  decide

/-- A colour with the defaults; a space of 1 unit where 3 are asked for. -/
theorem witness_FeedInReadSpaceRejects :
    (1 : LevelCode).toNat ≤ 4 ∧ (withDecoder (inFrame .readSpace)).dec.valid = true
      ∧ timingInvalid Config.defaults 600 = false ∧ (withDecoder (inFrame .readSpace)).dec.state = .readSpace
      ∧ ¬ AcceptedSpace Config.defaults 1 600
      ∧ timingInvalid { Config.defaults with separatorUnits := 3 } 600 = false
      ∧ ¬ AcceptedSpace { Config.defaults with separatorUnits := 3 } 0 600 := by
  decide

/-- The first symbol of a byte, behind a space far longer than the separator. -/
theorem witness_FeedCollectsSymbol :
    (withDecoder (inFrame .readSpace)).dec.valid = true ∧ timingInvalid Config.defaults 60000 = false
      ∧ (withDecoder (inFrame .readSpace)).dec.state = .readSpace ∧ AcceptedSpace Config.defaults 0 60000
      ∧ (withDecoder (inFrame .readSpace)).dec.bitsFilled ≠ 6 := by
  decide

/-- The first byte of a frame (length not known), and the last but one of a nine-byte frame. -/
theorem witness_FeedStoresByte :
    timingInvalid Config.defaults 600 = false ∧ AcceptedSpace Config.defaults 0 600
      ∧ (lastSymbol [] 0x30 3 false 0).valid = true ∧ (lastSymbol [] 0x30 3 false 0).state = .readSpace
      ∧ (lastSymbol [] 0x30 3 false 0).bitsFilled = 6 ∧ (lastSymbol [] 0x30 3 false 0).fb.length < 521
      ∧ (lastSymbol [] 0x30 3 false 0).fb.length ≠ 4
      ∧ ((lastSymbol [] 0x30 3 false 0).lengthKnown = true →
          (lastSymbol [] 0x30 3 false 0).fb.length + 1 < (lastSymbol [] 0x30 3 false 0).expectedLen.toNat)
      ∧ (lastSymbol [0xC3, 0x9A, 0x01, 0x00, 0x00, 0xFF, 0xFF] 0x14 1 true 9).fb.length + 1 < (9 : BitVec 10).toNat := by
  decide

/-- A length of 512, accepted, and one of 513, rejected (vectors P6). -/
theorem witness_FeedParsesLength :
    timingInvalid Config.defaults 600 = false ∧ AcceptedSpace Config.defaults 0 600
      ∧ (lastSymbol [0xC3, 0x9A, 0x01, 0x02] 0 1 false 0).valid = true
      ∧ (lastSymbol [0xC3, 0x9A, 0x01, 0x02] 0 1 false 0).state = .readSpace
      ∧ (lastSymbol [0xC3, 0x9A, 0x01, 0x02] 0 1 false 0).bitsFilled = 6
      ∧ (lastSymbol [0xC3, 0x9A, 0x01, 0x02] 0 1 false 0).fb = [0xC3, 0x9A, 0x01, 0x02]
      ∧ Config.defaults.maxPayloadBytes.toNat ≤ 512
      ∧ (0x02 : Byte).toNat * 256 + (completedByte (lastSymbol [0xC3, 0x9A, 0x01, 0x02] 0 0 false 0)).toNat = 512
      ∧ (0x02 : Byte).toNat * 256 + (completedByte (lastSymbol [0xC3, 0x9A, 0x01, 0x02] 0 1 false 0)).toNat = 513 := by
  decide

/-- A frame of the empty payload whose magic, version, ender or CRC is wrong (R164, its examples). -/
theorem witness_FeedRejectsBadFrame :
    timingInvalid Config.defaults 600 = false ∧ AcceptedSpace Config.defaults 0 600
      ∧ beforeEnd.valid = true ∧ beforeEnd.state = .readSpace ∧ beforeEnd.bitsFilled = 6
      ∧ beforeEnd.fb.length < 521 ∧ beforeEnd.fb.length ≠ 4 ∧ beforeEnd.lengthKnown = true
      ∧ beforeEnd.fb.length + 1 = beforeEnd.expectedLen.toNat
      ∧ firstFailure Config.defaults ([0xC2, 0x9A, 0x01, 0x00, 0x00, 0xFF, 0xFF, 0x51] ++ [completedByte beforeEnd])
          = some .magicMismatches
      ∧ firstFailure Config.defaults ([0xC3, 0x9A, 0x02, 0x00, 0x00, 0xFF, 0xFF, 0x51] ++ [completedByte beforeEnd])
          = some .headerRejects
      ∧ firstFailure Config.defaults ([0xC3, 0x9A, 0x01, 0x00, 0x00, 0xFF, 0xFF, 0xAA] ++ [completedByte beforeEnd])
          = some .enderMismatches
      ∧ firstFailure Config.defaults ([0xC3, 0x9A, 0x01, 0x00, 0x00, 0xFF, 0x00, 0x51] ++ [completedByte beforeEnd])
          = some .crcFailures := by
  decide

theorem witness_FeedDeliversGoodFrame :
    beforeEnd.valid = true ∧ timingInvalid Config.defaults 600 = false ∧ beforeEnd.state = .readSpace
      ∧ AcceptedSpace Config.defaults 0 600 ∧ beforeEnd.bitsFilled = 6 ∧ beforeEnd.fb.length < 521
      ∧ beforeEnd.lengthKnown = true ∧ beforeEnd.fb.length + 1 = beforeEnd.expectedLen.toNat
      ∧ ([] : List Byte).length ≤ beforeEnd.cfg.maxPayloadBytes.toNat
      ∧ beforeEnd.fb ++ [completedByte beforeEnd] = wireFrame beforeEnd.cfg [] := by
  decide

/-- A full buffer, and a buffer that is as long as the whole frame; neither is reached from reset. -/
theorem witness_FeedOverrunAborts :
    timingInvalid Config.defaults 600 = false ∧ AcceptedSpace Config.defaults 0 600
      ∧ (lastSymbol (List.replicate 521 0) 0 0 true 521).valid = true
      ∧ (lastSymbol (List.replicate 521 0) 0 0 true 521).state = .readSpace
      ∧ (lastSymbol (List.replicate 521 0) 0 0 true 521).bitsFilled = 6
      ∧ (lastSymbol (List.replicate 521 0) 0 0 true 521).fb.length = 521
      ∧ (lastSymbol (List.replicate 9 0) 0 0 true 9).fb.length < 521
      ∧ (lastSymbol (List.replicate 9 0) 0 0 true 9).fb.length ≠ 4
      ∧ (lastSymbol (List.replicate 9 0) 0 0 true 9).lengthKnown = true
      ∧ (lastSymbol (List.replicate 9 0) 0 0 true 9).expectedLen.toNat
          < (lastSymbol (List.replicate 9 0) 0 0 true 9).fb.length + 1 := by
  refine ⟨by decide, by decide, rfl, rfl, rfl, List.length_replicate, ?_⟩
  decide

/-- From reset, and from a state inside a frame. -/
theorem witness_StepKeepsInvariant :
    State.reset.Inv ∧ step State.reset = .next State.reset ∧ (withDecoder beforeEnd).Inv := by
  refine ⟨by decide, rfl, by decide⟩

theorem witness_FeedCounterCombinations : State.reset.Inv ∧ (withDecoder beforeEnd).Inv :=
  ⟨by decide, by decide⟩

theorem witness_OperationChangesOwnSubunitOnly :
    exec .crcInit State.reset = .next (State.reset.respond .ok .none) ∧ subunitOf .crcInit ≠ .enc
      ∧ subunitOf .crcInit ≠ .dec ∧ subunitOf .encValid ≠ .crc := by
  refine ⟨rfl, ?_⟩
  decide

theorem witness_DifferentSubunitsCommute : subunitOf .crcInit ≠ subunitOf (.decFeed 1 9600) := by decide

theorem witness_ReadOperationsChangeNothing : isReadOnly .decStats = true ∧ isReadOnly (.symDec 5) = true := by decide

theorem witness_DeliveredFrameIsAuthentic :
    (after (.decFeed 0 600) (withDecoder { beforeEnd with cbEn := true })).map (fun t => t.outs)
      = some ((withDecoder beforeEnd).outs ++ [.deliver { payload := [], length := 0, ctx := 0 }, okNone]) := by
  decide

theorem witness_EncodeFeedRoundTrip :
    validConfig State.reset.enc.cfg = true ∧ State.reset.enc.valid = true
      ∧ (withDecoder { Decoder.reset with cbEn := true }).dec.cfg = State.reset.enc.cfg
      ∧ (withDecoder { Decoder.reset with cbEn := true }).dec.valid = true
      ∧ (withDecoder { Decoder.reset with cbEn := true }).dec.state = .idle
      ∧ (withDecoder { Decoder.reset with cbEn := true }).dec.cbEn = true
      ∧ ([0x48, 0x69] : List Byte).length ≤ State.reset.enc.cfg.maxPayloadBytes.toNat := by
  decide

/-- A preamble mark in the middle of a frame: timing-valid, and timing-invalid but armed by its units. -/
theorem witness_PreambleResynchronises :
    beforeEnd.valid = true ∧ 1 ≤ (1 : LevelCode).toNat ∧ (1 : LevelCode).toNat ≤ 4
      ∧ PreambleMark beforeEnd.cfg 1 9600
      ∧ unitsMatch beforeEnd.cfg (unitsOf beforeEnd.cfg 9600) beforeEnd.cfg.symbolMarkUnits.toNat = false
      ∧ PreambleMark beforeEnd.cfg 1 9900 ∧ timingInvalid beforeEnd.cfg 9900 = true
      ∧ timingInvalid beforeEnd.cfg 4800 = false
      ∧ unitsMatch beforeEnd.cfg (unitsOf beforeEnd.cfg 4800) beforeEnd.cfg.preambleSpaceUnits.toNat = true := by
  decide

/-- The frame of "Hi" with its second payload byte received as 0x68. -/
theorem witness_WrongPayloadByteCountsCrcFailure :
    let d := lastSymbol [0xC3, 0x9A, 0x01, 0x00, 0x02, 0x64, 0xE5, 0x48, 0x68, 0x51] 0x2A 2 true 11
    d.valid = true ∧ timingInvalid d.cfg 600 = false ∧ d.state = .readSpace ∧ AcceptedSpace d.cfg 0 600
      ∧ d.bitsFilled = 6 ∧ d.fb.length < 521 ∧ d.lengthKnown = true ∧ d.frameActive = true
      ∧ d.fb.length + 1 = d.expectedLen.toNat
      ∧ ([0x48] ++ (0x69 : Byte) :: []).length ≤ d.cfg.maxPayloadBytes.toNat ∧ (0x69 : Byte) ≠ 0x68
      ∧ d.fb ++ [completedByte d]
          = (wireFrame d.cfg ([0x48] ++ 0x69 :: [])).set (7 + ([0x48] : List Byte).length) 0x68 := by
  decide +kernel

end Sys2Proof.Tests
end

section
/-! The state after reset (spec/10_state.md R38). -/

open Sys2Proof Sys2Proof.Machine

namespace Sys2Proof.Proofs

/-- Settles O13: the table of R38 subunit by subunit, then the defaults of R26. The model's reset values are closed records,
so each part is computed by unfolding them. -/
theorem resetState : Obligations.ResetState := by
  unfold Obligations.ResetState
  refine ⟨?crc, ?encoder, ?decoder, ?defaults⟩
  case crc => rfl
  case encoder => rfl
  case decoder => rfl
  case defaults => rfl

end Sys2Proof.Proofs
end

section
/-! The packed ProtocolConfig (spec/30_encoding.md R68): what reading a field gives, and what reading a written record gives. -/

open Sys2Proof

namespace Sys2Proof.Proofs

/-- The `n` bits of a word from bit `k` up, in plain numbers. -/
theorem extractLsb'_toNat_eq_div_mod {w : Nat} (k n : Nat) (v : BitVec w) :
    (v.extractLsb' k n).toNat = v.toNat / 2 ^ k % 2 ^ n := by
  rw [BitVec.extractLsb'_toNat, Nat.shiftRight_eq_div_pow]

/-- Each field of a record is read from the bits its row of R68 gives it. -/
theorem unpackConfig_fields_toNat (v : BitVec 176) :
    (unpackConfig v).unitDurationMicros.toNat = v.toNat % 2 ^ 16
    ∧ (unpackConfig v).preambleMarkUnits.toNat = v.toNat / 2 ^ 16 % 2 ^ 16
    ∧ (unpackConfig v).preambleSpaceUnits.toNat = v.toNat / 2 ^ 32 % 2 ^ 16
    ∧ (unpackConfig v).symbolMarkUnits.toNat = v.toNat / 2 ^ 48 % 2 ^ 16
    ∧ (unpackConfig v).separatorUnits.toNat = v.toNat / 2 ^ 64 % 2 ^ 16
    ∧ (unpackConfig v).frameGapUnits.toNat = v.toNat / 2 ^ 80 % 2 ^ 16
    ∧ (unpackConfig v).preambleColor.toNat = v.toNat / 2 ^ 96 % 2 ^ 3
    ∧ (unpackConfig v).allowedDriftPermille.toNat = v.toNat / 2 ^ 104 % 2 ^ 16
    ∧ (unpackConfig v).maxPayloadBytes.toNat = v.toNat / 2 ^ 120 % 2 ^ 16
    ∧ (unpackConfig v).magic.toNat = v.toNat / 2 ^ 136 % 2 ^ 16
    ∧ (unpackConfig v).ender.toNat = v.toNat / 2 ^ 152 % 2 ^ 16
    ∧ (unpackConfig v).version.toNat = v.toNat / 2 ^ 168 % 2 ^ 8 := by
  have unitField : (v.extractLsb' 0 16).toNat = v.toNat % 2 ^ 16 := by
    rw [extractLsb'_toNat_eq_div_mod, Nat.pow_zero, Nat.div_one]
  exact ⟨unitField, extractLsb'_toNat_eq_div_mod 16 16 v, extractLsb'_toNat_eq_div_mod 32 16 v,
    extractLsb'_toNat_eq_div_mod 48 16 v, extractLsb'_toNat_eq_div_mod 64 16 v, extractLsb'_toNat_eq_div_mod 80 16 v,
    extractLsb'_toNat_eq_div_mod 96 3 v, extractLsb'_toNat_eq_div_mod 104 16 v, extractLsb'_toNat_eq_div_mod 120 16 v,
    extractLsb'_toNat_eq_div_mod 136 16 v, extractLsb'_toNat_eq_div_mod 152 16 v, extractLsb'_toNat_eq_div_mod 168 8 v⟩

/-- Reading a written record gives it back. `packConfig` is a concatenation whose last operand is the lowest field: a field
read at bit `k` skips every operand below it (`extractLsb'_append_eq_of_le`) until it is the lowest that is left. -/
@[simp] theorem unpackConfig_packConfig (c : ProtocolConfig) : unpackConfig (packConfig c) = c := by
  simp (disch := decide) only [unpackConfig, packConfig, BitVec.extractLsb'_append_eq_of_le,
    BitVec.extractLsb'_append_eq_right, BitVec.extractLsb'_eq_self, Nat.reduceSub]

/-- The reserved bits [103:99] of a written record are 0: below them stand the seven fields from the unit to the colour. -/
theorem packConfig_reserved (c : ProtocolConfig) : (packConfig c).extractLsb' 99 5 = 0 := by
  simp (disch := decide) only [packConfig, BitVec.extractLsb'_append_eq_of_le, BitVec.extractLsb'_append_eq_right,
    Nat.reduceSub]

/-- The default word of R68. -/
theorem packConfig_defaults :
    packConfig Config.defaults = 0x0151AAC39A020000C801000C00010001000800100258 := by
  decide

/-- Settles O6: reading each field, the round trip through a written record with its reserved bits, the default word. -/
theorem packedConfigLayout : Obligations.PackedConfigLayout := by
  unfold Obligations.PackedConfigLayout
  refine ⟨unpackConfig_fields_toNat, fun c => ⟨unpackConfig_packConfig c, ?reserved⟩, packConfig_defaults⟩
  case reserved => rw [← extractLsb'_toNat_eq_div_mod, packConfig_reserved]; rfl

end Sys2Proof.Proofs
end

section
/-! The step on a packet that is no operation (spec/30_encoding.md R64). -/

open Sys2Proof Sys2Proof.Machine

namespace Sys2Proof.Proofs

/-- A value that is the opcode of no row stands for no operation. -/
theorem ofCode_eq_none {b : BitVec 8} (h : b ∉ Op.all.map Op.code) : Op.ofCode b = none := by
  rw [Option.eq_none_iff_forall_ne_some]
  intro op hop
  exact h (Op.code_of_ofCode hop ▸ List.mem_map_of_mem op.mem_all)

/-- The opcode is looked at first: an undefined one is the error whatever stands beside the word. -/
theorem decode_of_ofCode_eq_none {p : Packet} (h : Op.ofCode (opField p.word) = none) :
    decode p = .error (.undefinedOpcode (opField p.word)) := by
  rw [decode, h]

/-- The step on a packet that does not decode takes the packet and turns it away. -/
theorem step_of_decode_error {s : State} {p : Packet} {rest : List Packet} {e : DecodeError}
    (hport : s.port = p :: rest) (hdec : decode p = .error e) :
    step s = rejectCommand e { s with port := rest } := by
  have taken : takeCommand s = some (p, { s with port := rest }) := takeCommand_eq_some.2 ⟨rest, hport, rfl⟩
  rw [step, taken]
  dsimp only
  rw [hdec]

/-- Settles O4: the fifteen opcodes listed are those of `Op.all`, in its order, so an opcode outside the list decodes to the
error that is answered `ILLEGAL`, here without data. -/
theorem undefinedOpcodeAnswersIllegal : Obligations.UndefinedOpcodeAnswersIllegal := by
  unfold Obligations.UndefinedOpcodeAnswersIllegal
  intro s p rest hport hop
  have hdec : decode p = .error (.undefinedOpcode (opField p.word)) := decode_of_ofCode_eq_none (ofCode_eq_none hop)
  refine ⟨fun i hi => ?noInstr, .none, ?answer⟩
  case noInstr => rw [hdec] at hi; cases hi
  case answer => exact step_of_decode_error hport hdec

end Sys2Proof.Proofs
end

section
/-! The CRC generator: its three operations, and the sequence that computes the CRC of a row of bytes (spec/40_crc16.md
R92 to R96). -/

open Sys2Proof Sys2Proof.Machine

namespace Sys2Proof.Proofs

/-! ## One operation -/

theorem exec_crcInit (s : State) :
    exec .crcInit s = .next { s with crc := { acc := 0xFFFF }, outs := s.outs ++ [okNone] } := rfl

theorem exec_crcByte (byte : Byte) (s : State) :
    exec (.crcByte byte) s
      = .next { s with crc := { acc := crc16Step s.crc.acc byte }, outs := s.outs ++ [okNone] } := rfl

theorem exec_crcRead (s : State) :
    exec .crcRead s = .next { s with outs := s.outs ++ [.response { status := .ok, data := .crc s.crc.acc }] } := rfl

/-- Settles O14: the opcode's row has no operands (`decode_code_append`), and the effect is `exec_crcInit`. -/
theorem crcInitSetsAccumulator : Obligations.CrcInitSetsAccumulator := by
  unfold Obligations.CrcInitSetsAccumulator
  exact ⟨fun _ => decode_code_append (op := .crcInit) rfl, exec_crcInit⟩

/-- Settles O15: the operand is the field `arg[7:0]`, which as a number is `arg` reduced to eight bits; the effect is
`exec_crcByte`. -/
theorem crcByteStepsAccumulator : Obligations.CrcByteStepsAccumulator := by
  unfold Obligations.CrcByteStepsAccumulator
  refine ⟨fun arg => ?encoding, exec_crcByte⟩
  case encoding =>
    have field : arg.extractLsb' 0 8 = BitVec.ofNat 8 arg.toNat := by
      rw [extractLsb'_eq_ofNat, Nat.pow_zero, Nat.div_one]
    rw [← field]
    exact decode_code_append (op := .crcByte) rfl

/-- Settles O16: the opcode's row has no operands (`decode_code_append`), and the response is `exec_crcRead`. -/
theorem crcReadReturnsAccumulator : Obligations.CrcReadReturnsAccumulator := by
  unfold Obligations.CrcReadReturnsAccumulator
  exact ⟨fun _ => decode_code_append (op := .crcRead) rfl, exec_crcRead⟩

/-! ## Operations in a row -/

/-- A run goes on from the state its first operation leaves. -/
theorem execAll_cons_of_next {i : Instr} {s t : State} (h : exec i s = .next t) (is : List Instr) :
    execAll (i :: is) s = execAll is t := by
  rw [execAll, h]

/-- The second of two rows of operations runs from the state the first leaves. -/
theorem execAll_append_of_next {is : List Instr} {s t : State} (h : execAll is s = .next t) (js : List Instr) :
    execAll (is ++ js) s = execAll js t := by
  induction is generalizing s with
  | nil => cases h; rfl
  | cons i is ih =>
    rw [execAll] at h
    split at h
    case h_1 u hu => rw [List.cons_append, execAll_cons_of_next hu, ih h]
    case h_2 => cases h
    case h_3 => cases h

/-! ## The CRC of a sequence -/

theorem crc16From_cons (c : BitVec 16) (b : Byte) (bytes : List Byte) :
    crc16From c (b :: bytes) = crc16From (crc16Step c b) bytes := rfl

theorem crc16From_append (c : BitVec 16) (bytes bytes' : List Byte) :
    crc16From c (bytes ++ bytes') = crc16From (crc16From c bytes) bytes' := List.foldl_append

/-- One `CRC.BYTE` per byte continues the CRC from whatever `crc.acc` holds (R94), with one `OK` for each. -/
theorem execAll_map_crcByte (bytes : List Byte) (s : State) :
    execAll (bytes.map Instr.crcByte) s = .next { s with
      crc := { acc := crc16From s.crc.acc bytes }
      outs := s.outs ++ List.replicate bytes.length okNone } := by
  induction bytes generalizing s with
  | nil =>
    rw [List.length_nil, List.replicate_zero, List.append_nil]
    rfl
  | cons b bytes ih =>
    rw [List.map_cons, execAll_cons_of_next (exec_crcByte b s), ih, crc16From_cons, List.append_assoc,
      List.singleton_append, List.length_cons, List.replicate_succ]

/-- Settles O18: `crc16` is a left fold, so a byte at the end is one step more; and the sequence is `CRC.INIT`, the row of
`CRC.BYTE`s from 0xFFFF (`execAll_map_crcByte`), and `CRC.READ`. -/
theorem computeCrcSequence : Obligations.ComputeCrcSequence := by
  unfold Obligations.ComputeCrcSequence
  refine ⟨rfl, fun bytes b => crc16From_append crcInitial bytes [b], fun bytes s => ?sequence⟩
  case sequence =>
    have bytesDone := (execAll_cons_of_next (exec_crcInit s) _).trans (execAll_map_crcByte bytes _)
    rw [execAll_append_of_next bytesDone, execAll_cons_of_next (exec_crcRead _), execAll, List.append_assoc s.outs,
      List.singleton_append, ← List.replicate_succ]
    rfl

end Sys2Proof.Proofs
end

section
/-! The symbol codec: its two operations (spec/41_symbol_codec.md R102, R103). -/

open Sys2Proof Sys2Proof.Machine

namespace Sys2Proof.Proofs

/-- The lowest `n` bits of a word are its number reduced to `n` bits: how a format reads an operand that starts at `arg[0]`. -/
theorem extractLsb'_zero_eq_ofNat {w : Nat} (n : Nat) (v : BitVec w) :
    v.extractLsb' 0 n = BitVec.ofNat n v.toNat := by
  rw [extractLsb'_eq_ofNat, Nat.pow_zero, Nat.div_one]

/-! ## The tables -/

/-- The table of R100 in level codes: Red is 2, Green 3, Blue 4 and White 1 (R66). -/
theorem levelCode_symbolToColor_eq_ite (sym : Sym) :
    levelCode (symbolToColor sym) = if sym = 0 then 2 else if sym = 1 then 3 else if sym = 2 then 4 else 1 := by
  rw [symbolToColor, apply_ite levelCode, apply_ite levelCode, apply_ite levelCode]
  rfl

/-- A symbol is found again from its colour: the tables of R100 and R101 list the same four pairs. -/
@[simp] theorem colorToSymbol_symbolToColor (sym : Sym) : colorToSymbol (symbolToColor sym) = some sym := by
  revert sym
  decide

/-! ## `SYM.ENC` -/

theorem exec_symEnc (sym : Sym) (s : State) :
    exec (.symEnc sym) s = .next { s with
      outs := s.outs ++ [.response { status := .ok, data := .level (levelCode (symbolToColor sym)) }] } := rfl

/-- Settles O20: the operand is `arg[1:0]`, and the level code of the answer is that of the table
(`levelCode_symbolToColor_eq_ite`). -/
theorem symEncReturnsColour : Obligations.SymEncReturnsColour := by
  unfold Obligations.SymEncReturnsColour
  refine ⟨fun arg => ?encoding, fun sym s => ?effect⟩
  case encoding =>
    rw [← extractLsb'_zero_eq_ofNat]
    exact decode_code_append (op := .symEnc) rfl
  case effect => rw [exec_symEnc, levelCode_symbolToColor_eq_ite]

/-! ## `SYM.DEC`, by what its operand stands for -/

/-- The code of a level that is the colour of a symbol answers the symbol. -/
theorem exec_symDec_of_symbol {l : LightLevel} {sym : Sym} (h : colorToSymbol l = some sym) (s : State) :
    exec (.symDec (levelCode l)) s = .next { s with
      outs := s.outs ++ [.response { status := .ok, data := .sym sym }] } := by
  simp only [exec, execSymDec, levelOfCode_levelCode, h, State.respond]

/-- The code of a level without a symbol answers `FAIL`. -/
theorem exec_symDec_of_no_symbol {l : LightLevel} (h : colorToSymbol l = none) (s : State) :
    exec (.symDec (levelCode l)) s = .next { s with
      outs := s.outs ++ [.response { status := .fail, data := .sym 0 }] } := by
  simp only [exec, execSymDec, levelOfCode_levelCode, h, State.respond]

/-- A code that stands for no level answers `ILLEGAL`. -/
theorem exec_symDec_of_no_level {c : LevelCode} (h : levelOfCode c = none) (s : State) :
    exec (.symDec c) s = .next { s with
      outs := s.outs ++ [.response { status := .illegal, data := .sym 0 }] } := by
  simp only [exec, execSymDec, h, State.illegal, State.respond]

/-- Settles O21: the operand is `arg[2:0]`. A colour's code is the code of the level `symbolToColor` gives, which has its
symbol back; code 0 is Off, the level without a symbol; a code from 5 up stands for no level. -/
theorem symDecReturnsSymbol : Obligations.SymDecReturnsSymbol := by
  unfold Obligations.SymDecReturnsSymbol
  refine ⟨fun arg => ?encoding, fun s => ⟨fun sym => ?colour, ?off, fun level reserved => ?reserved⟩⟩
  case encoding =>
    rw [← extractLsb'_zero_eq_ofNat]
    exact decode_code_append (op := .symDec) rfl
  case colour =>
    rw [← levelCode_symbolToColor]
    exact exec_symDec_of_symbol (colorToSymbol_symbolToColor sym) s
  case off => exact exec_symDec_of_no_symbol (colorToSymbol_eq_none.2 rfl) s
  case reserved => exact exec_symDec_of_no_level (levelOfCode_reserved reserved) s

end Sys2Proof.Proofs
end

section
/-! The two configuration records: the operations that store one, read its validity flag, or return it
(spec/42_config_tolerance.md R115 to R119). -/

open Sys2Proof Sys2Proof.Machine

namespace Sys2Proof.Proofs

/-! ## The encoder's record -/

theorem exec_encConfigure (cfg : ProtocolConfig) (s : State) :
    exec (.encConfigure cfg) s = .next { s with
      enc := s.enc.configure cfg
      outs := s.outs ++ [.response { status := .ok, data := .valid (validConfig cfg) }] } := rfl

theorem exec_encValid (s : State) :
    exec .encValid s
      = .next { s with outs := s.outs ++ [.response { status := .ok, data := .valid s.enc.valid }] } := rfl

/-- Settles O25: the operand is the whole field `arg`, unpacked; the effect is `exec_encConfigure`, where
`Encoder.configure` writes the record and its flag and nothing else of the encoder. -/
theorem encConfigureStoresRecord : Obligations.EncConfigureStoresRecord := by
  unfold Obligations.EncConfigureStoresRecord
  exact ⟨fun _ => decode_code_append (op := .encConfigure) rfl, exec_encConfigure⟩

/-! ## The decoder's record -/

theorem exec_decConfigure (cfg : ProtocolConfig) (s : State) :
    exec (.decConfigure cfg) s = .next { s with
      dec := s.dec.configure cfg
      outs := s.outs ++ [.response { status := .ok, data := .valid (validConfig cfg) }] } := rfl

theorem exec_decValid (s : State) :
    exec .decValid s
      = .next { s with outs := s.outs ++ [.response { status := .ok, data := .valid s.dec.valid }] } := rfl

theorem exec_decConfig (s : State) :
    exec .decConfig s
      = .next { s with outs := s.outs ++ [.response { status := .ok, data := .cfg (packConfig s.dec.cfg) }] } := rfl

/-- A configured decoder is one with its frame state cleared and its counters as they were, not even a frame in progress
being counted, that holds the new record and its flag (R117, R173). -/
theorem Decoder.configure_eq_cleared (d : Decoder) (cfg : ProtocolConfig) :
    d.configure cfg = { clearedDecoder d .idle d.stats with cfg := cfg, valid := validConfig cfg } := rfl

/-- Settles O26: neither opcode's row has operands (`decode_code_append`), and the responses are `exec_encValid` and
`exec_decValid`. -/
theorem validOperationsReturnFlags : Obligations.ValidOperationsReturnFlags := by
  unfold Obligations.ValidOperationsReturnFlags
  refine ⟨fun _ => ?encEncoding, fun _ => ?decEncoding, fun s => ⟨exec_encValid s, exec_decValid s⟩⟩
  case encEncoding => exact decode_code_append (op := .encValid) rfl
  case decEncoding => exact decode_code_append (op := .decValid) rfl

/-- Settles O27: the operand is the whole field `arg`, unpacked; the effect is `exec_decConfigure`, and
`Decoder.configure_eq_cleared` says which decoder that leaves. -/
theorem decConfigureStoresAndClears : Obligations.DecConfigureStoresAndClears := by
  unfold Obligations.DecConfigureStoresAndClears
  refine ⟨fun _ => ?encoding, fun cfg s => ?effect⟩
  case encoding => exact decode_code_append (op := .decConfigure) rfl
  case effect => rw [exec_decConfigure, Decoder.configure_eq_cleared]

/-- Settles O28: the opcode's row has no operands, and the word returned is the written record, which R68 lays out: read back it
is `dec.cfg`, and its reserved bits are 0 (`packedConfigLayout`). -/
theorem decConfigReturnsRecord : Obligations.DecConfigReturnsRecord := by
  unfold Obligations.DecConfigReturnsRecord
  refine ⟨fun _ => ?encoding, fun s => ⟨packConfig s.dec.cfg, exec_decConfig s, ?word⟩⟩
  case encoding => exact decode_code_append (op := .decConfig) rfl
  case word =>
    obtain ⟨_, written, _⟩ := packedConfigLayout
    exact written s.dec.cfg

end Sys2Proof.Proofs
end

section
/-! `ENC.ENCODE` (spec/43_encoder.md R131 to R135): what a payload it takes leaves in the two buffers, and its response. -/

open Sys2Proof Sys2Proof.Machine

namespace Sys2Proof.Proofs

/-- The two buffers of a payload that passes both checks, in plain terms: no append yields `full`
(`encodePayloadBuffers_of_le`), the payload's length fits the 16-bit field of the frame, and the machine's rows of bytes and
changes are those of R71 to R76. -/
theorem encodePayloadBuffers_eq_wire {e : Encoder} {payload : List Byte} (valid : e.valid = true)
    (fits : payload.length ≤ encodeCap e.cfg) :
    encodePayloadBuffers e payload
      = some (wireFrame e.cfg payload, wireChanges e.cfg (wireFrame e.cfg payload)) := by
  have capBound : encodeCap e.cfg ≤ 512 := encodeCap_le e.cfg
  rw [encodePayloadBuffers_of_le valid fits, changes_eq_wireChanges, frameBytes_eq_wireFrame e.cfg (by omega)]

/-- `ENC.ENCODE` answers with what it left in `enc.out`, whatever the two buffers came to be. -/
theorem exec_encEncode_of_some {payload : List Byte} {s : State} {frame : List Byte} {out : List SignalChange}
    (built : encodePayloadBuffers s.enc payload = some (frame, out)) :
    exec (.encEncode payload) s = .next { s with
      enc := { s.enc with fb := frame, out := out }
      outs := s.outs ++ [.response
        { status := .ok, data := .changes (BitVec.ofNat 13 out.length) (out.map packChange) }] } := by
  simp only [exec, execEncEncode, built, State.respond, State.withEnc]

/-- Settles O29: the row's operand is the payload itself, its length announced by `arg[15:0]`. The effect is that of the buffers
in plain terms (`encodePayloadBuffers_eq_wire`); the count follows from the lengths of the frame and of its changes. -/
theorem encodeBuildsFrameAndChanges : Obligations.EncodeBuildsFrameAndChanges := by
  unfold Obligations.EncodeBuildsFrameAndChanges
  refine ⟨fun arg payload announced => ?encoding, fun payload s valid fits => ?effect⟩
  case encoding =>
    have announced' : payload.length = announcedLength .encEncode arg := by
      rw [announced, announcedLength, extractLsb'_zero_eq_ofNat, BitVec.toNat_ofNat]
    exact decode_code_append (op := .encEncode) announced'
  case effect =>
    rw [exec_encEncode_of_some (encodePayloadBuffers_eq_wire valid fits), wireChanges_length, wireFrame_length]

end Sys2Proof.Proofs
end

section
/-! `DEC.FEED`, one state of the decoder at a time (spec/44_decoder.md R153, R156 to R158): each step procedure in the plain
terms of the statements, and the operation that runs it. -/

open Sys2Proof Sys2Proof.Machine

namespace Sys2Proof.Proofs

/-! ## The operation, from what the state machine answers -/

/-- A change whose level is not reserved leaves the decoder the state machine answers, and puts out its event before the
response (R150). -/
theorem exec_decFeed_of_feed {l : LightLevel} {t : Duration} {s : State} {d : Decoder} {e : Option Delivery}
    (fed : s.dec.feed l t = (d, e)) :
    exec (.decFeed (levelCode l) t) s = .next { s with
      dec := d
      outs := s.outs ++ (e.map Output.deliver).toList ++ [okNone] } := by
  rw [exec, execDecFeed_of_level (levelOfCode_levelCode l), fed]
  cases e with
  | none => simp only [Option.map_none, Option.toList_none, List.append_nil]; rfl
  | some e => rfl

/-- The same for a change that delivers nothing. -/
theorem exec_decFeed_of_silent {l : LightLevel} {t : Duration} {s : State} {d : Decoder}
    (fed : s.dec.feed l t = (d, none)) :
    exec (.decFeed (levelCode l) t) s = .next { s with dec := d, outs := s.outs ++ [okNone] } := by
  rw [exec_decFeed_of_feed fed, Option.map_none, Option.toList_none, List.append_nil]

/-! ## The step procedures -/

theorem Decoder.stepTimingInvalid_eq_cleared (d : Decoder) (l : LightLevel) (t : Duration) :
    d.stepTimingInvalid l (unitsOf d.cfg t)
      = clearedDecoder d (stateAfterReject d.cfg (levelCode l) t)
          (abortStats d.frameActive (d.stats.bump .durationRejections)) :=
  d.reject_rearm_eq_cleared .durationRejections l t

/-- In Idle only a preamble mark moves the decoder (R156). -/
theorem Decoder.stepIdle_eq_ite {d : Decoder} (idle : d.state = .idle) (l : LightLevel) (t : Duration) :
    d.stepIdle l (unitsOf d.cfg t)
      = { d with state := if PreambleMark d.cfg (levelCode l) t then .waitSpace else .idle } := by
  rw [Decoder.stepIdle]
  by_cases mark : PreambleMark d.cfg (levelCode l) t
  · rw [if_pos (isPreambleMark_iff.2 mark), if_pos mark]
    rfl
  · rw [if_neg (mt isPreambleMark_iff.1 mark), if_neg mark, ← idle]

/-- In WaitSpace the re-arm after an abort never fires: a change that is a preamble mark has not come that far (R157). -/
theorem Decoder.stepWaitSpace_eq_ite {d : Decoder} (waiting : d.state = .waitSpace) (l : LightLevel) (t : Duration) :
    d.stepWaitSpace l (unitsOf d.cfg t)
      = if levelCode l = 0 ∧ unitsMatch d.cfg (unitsOf d.cfg t) d.cfg.preambleSpaceUnits.toNat = true then
          { clearedDecoder d .readMark d.stats with frameActive := true }
        else if PreambleMark d.cfg (levelCode l) t then d
        else clearedDecoder d .idle (abortStats d.frameActive d.stats) := by
  rw [Decoder.stepWaitSpace]
  simp only [levelCode_eq_zero]
  by_cases space : l = .off ∧ unitsMatch d.cfg (unitsOf d.cfg t) d.cfg.preambleSpaceUnits.toNat = true
  · rw [if_pos space, if_pos space]
    rfl
  rw [if_neg space, if_neg space]
  by_cases mark : PreambleMark d.cfg (levelCode l) t
  · rw [if_pos (isPreambleMark_iff.2 mark), if_pos mark, Decoder.goto, ← waiting]
  · have unarmed : ¬ isPreambleMark d.abort.cfg l (unitsOf d.cfg t) = true := by
      rw [Decoder.abort_cfg]
      exact mt isPreambleMark_iff.1 mark
    rw [if_neg (mt isPreambleMark_iff.1 mark), if_neg mark, Decoder.rearm, if_neg unarmed, Decoder.abort_eq_cleared]

/-- A colour's symbol is that of its level code (R101). -/
theorem colorToSymbol_eq_symbolOfCode {l : LightLevel} (colour : l ≠ .off) :
    colorToSymbol l = some (symbolOfCode (levelCode l)) := by
  cases l with
  | off => exact absurd rfl colour
  | white | red | green | blue => rfl

theorem Decoder.stepReadMark_of_off (d : Decoder) (u : Nat) :
    d.stepReadMark .off u = (d.reject .markRejections).rearm .off u := rfl

theorem Decoder.stepReadMark_of_colour (d : Decoder) {l : LightLevel} (colour : l ≠ .off) (u : Nat) :
    d.stepReadMark l u
      = if unitsMatch d.cfg u d.cfg.symbolMarkUnits.toNat = true then d.acceptMark (symbolOfCode (levelCode l))
        else (d.reject .markRejections).rearm l u := by
  rw [Decoder.stepReadMark, colorToSymbol_eq_symbolOfCode colour]

/-- In ReadMark a colour of the symbol mark's length is stored, anything else rejected (R158). -/
theorem Decoder.stepReadMark_eq_ite (d : Decoder) (l : LightLevel) (t : Duration) :
    d.stepReadMark l (unitsOf d.cfg t)
      = if levelCode l ≠ 0 ∧ unitsMatch d.cfg (unitsOf d.cfg t) d.cfg.symbolMarkUnits.toNat = true then
          { d with pendingSymbol := symbolOfCode (levelCode l), state := .readSpace }
        else
          clearedDecoder d (stateAfterReject d.cfg (levelCode l) t)
            (abortStats d.frameActive (d.stats.bump .markRejections)) := by
  simp only [← Decoder.reject_rearm_eq_cleared, ne_eq, levelCode_eq_zero]
  by_cases off : l = .off
  · rw [if_neg fun accepted => accepted.1 off, off, Decoder.stepReadMark_of_off]
  rw [Decoder.stepReadMark_of_colour d off]
  by_cases mark : unitsMatch d.cfg (unitsOf d.cfg t) d.cfg.symbolMarkUnits.toNat = true
  · rw [if_pos mark, if_pos ⟨off, mark⟩]
    rfl
  · rw [if_neg mark, if_neg fun accepted => mark accepted.2]

/-! ## The statements: a level that is not reserved is the code of a level -/

/-- Settles O36: the test comes before the state is looked at, and `stepTimingInvalid` is a rejection with its re-arm. -/
theorem feedTimingInvalid : Obligations.FeedTimingInvalid := by
  unfold Obligations.FeedTimingInvalid
  intro level t s notReserved valid invalid
  obtain ⟨l, -, rfl⟩ := exists_level_of_le notReserved
  exact exec_decFeed_of_silent
    (by rw [Decoder.feed_of_timingInvalid valid invalid, Decoder.stepTimingInvalid_eq_cleared])

/-- Settles O37, by `Decoder.stepIdle_eq_ite`. -/
theorem feedInIdle : Obligations.FeedInIdle := by
  unfold Obligations.FeedInIdle
  intro level t s notReserved valid timed idle
  obtain ⟨l, -, rfl⟩ := exists_level_of_le notReserved
  exact exec_decFeed_of_silent (by rw [Decoder.feed_of_idle valid timed idle, Decoder.stepIdle_eq_ite idle])

/-- Settles O38, by `Decoder.stepWaitSpace_eq_ite`. -/
theorem feedInWaitSpace : Obligations.FeedInWaitSpace := by
  unfold Obligations.FeedInWaitSpace
  intro level t s notReserved valid timed waiting
  obtain ⟨l, -, rfl⟩ := exists_level_of_le notReserved
  exact exec_decFeed_of_silent
    (by rw [Decoder.feed_of_waitSpace valid timed waiting, Decoder.stepWaitSpace_eq_ite waiting])

/-- Settles O39, by `Decoder.stepReadMark_eq_ite`. -/
theorem feedInReadMark : Obligations.FeedInReadMark := by
  unfold Obligations.FeedInReadMark
  intro level t s notReserved valid timed reading
  obtain ⟨l, -, rfl⟩ := exists_level_of_le notReserved
  exact exec_decFeed_of_silent
    (by rw [Decoder.feed_of_readMark valid timed reading, Decoder.stepReadMark_eq_ite])

end Sys2Proof.Proofs
end

section
/-! `DEC.FEED` in ReadSpace, when the symbol completes a byte (spec/44_decoder.md R159, R161 to R163): the byte that is stored,
and the length field that the fifth one completes. -/

open Sys2Proof Sys2Proof.Machine

namespace Sys2Proof.Proofs

/-! ## The completed byte -/

/-- The symbol shifted into the accumulator: the two shifted-in places are 0, so the symbol is added there, and a byte keeps the
lowest eight bits of the sum. -/
theorem shiftedByte_eq_completedByte (d : Decoder) :
    (d.currentByte <<< 2) ||| d.pendingSymbol.setWidth 8 = completedByte d := by
  have symbolLt : d.pendingSymbol.toNat < 2 ^ 2 := d.pendingSymbol.isLt
  have shifted : (d.currentByte <<< 2).toNat = (d.currentByte.toNat % 64) <<< 2 := by
    rw [BitVec.toNat_shiftLeft, Nat.shiftLeft_eq, Nat.shiftLeft_eq]
    omega
  have symbol : (d.pendingSymbol.setWidth 8).toNat = d.pendingSymbol.toNat := by
    rw [BitVec.toNat_setWidth]
    omega
  apply BitVec.eq_of_toNat_eq
  rw [BitVec.toNat_or, shifted, symbol, ← Nat.shiftLeft_add_eq_or_of_lt symbolLt, Nat.shiftLeft_eq, completedByte,
    BitVec.toNat_ofNat]
  omega

/-- The decoder with the byte its pending symbol completes in the frame buffer, and the accumulator empty (R161). -/
def storeByte (d : Decoder) : Decoder :=
  { d with fb := d.fb ++ [completedByte d], currentByte := 0, bitsFilled := 0 }

theorem storeByte_fb (d : Decoder) : (storeByte d).fb = d.fb ++ [completedByte d] := rfl

/-- The fourth symbol of a byte, with room in the frame buffer, stores the byte. -/
theorem Decoder.handleSymbol_of_last {d : Decoder} (last : d.bitsFilled = 6) (room : d.fb.length < 521) :
    d.handleSymbol d.pendingSymbol = (storeByte d).afterByte := by
  have full : d.bitsFilled + 2 = 8 := by rw [last]; rfl
  rcases d.handleSymbol_cases d.pendingSymbol with ⟨notFull, -⟩ | ⟨-, noRoom, -⟩ | ⟨-, -, stored⟩
  · exact absurd full notFull
  · omega
  · rw [stored, shiftedByte_eq_completedByte]
    rfl

/-- An accepted space after the fourth symbol of a byte: what follows the stored byte decides, and a decoder still in ReadSpace
goes back to ReadMark (R159). -/
theorem Decoder.feed_of_afterByte {d d' : Decoder} {e : Option Delivery} {t : Duration} (valid : d.valid = true)
    (timed : timingInvalid d.cfg t = false) (reading : d.state = .readSpace) (accepted : AcceptedSpace d.cfg 0 t)
    (last : d.bitsFilled = 6) (room : d.fb.length < 521) (after : (storeByte d).afterByte = (d', e)) :
    d.feed .off t = (d'.backToReadMark, e) := by
  rw [Decoder.feed_of_readSpace valid timed reading,
    Decoder.stepReadSpace_of_accepted ((spaceAccepted_iff _ _).2 accepted.2), Decoder.handleSymbol_of_last last room, after]

theorem Decoder.backToReadMark_of_readSpace {d : Decoder} (reading : d.state = .readSpace) :
    d.backToReadMark = d.goto .readMark := by
  rw [Decoder.backToReadMark, if_pos reading]

/-- A decoder whose frame has ended stays in Idle. -/
theorem Decoder.backToReadMark_of_idle {d : Decoder} (idle : d.state = .idle) : d.backToReadMark = d := by
  rw [Decoder.backToReadMark, if_neg (by rw [idle]; decide)]

/-! ## The fifth byte -/

/-- A length within the cap: the parsed frame is longer than its five bytes and, as its length fits the ten bits of
`dec.expectedLen`, goes on (R162, R163). -/
theorem Decoder.afterByte_of_fifth_le {d : Decoder} (fifth : d.fb.length = 5)
    (le : (memRead16 d.fb 3).toNat ≤ d.cfg.maxPayloadBytes.toNat) (cap : d.cfg.maxPayloadBytes.toNat ≤ 512) :
    d.afterByte = (d.acceptLength (memRead16 d.fb 3).toNat, none) := by
  have expected : (d.acceptLength (memRead16 d.fb 3).toNat).expectedLen.toNat = 9 + (memRead16 d.fb 3).toNat := by
    rw [Decoder.acceptLength_expectedLen, BitVec.toNat_ofNat]
    omega
  have shorter : (d.acceptLength (memRead16 d.fb 3).toNat).fb.length
      < (d.acceptLength (memRead16 d.fb 3).toNat).expectedLen.toNat := by
    rw [expected, Decoder.acceptLength_fb]
    omega
  have goesOn : (d.acceptLength (memRead16 d.fb 3).toNat).checkSize
      = (d.acceptLength (memRead16 d.fb 3).toNat, none) := by
    rcases (d.acceptLength (memRead16 d.fb 3).toNat).checkSize_cases with ⟨longer, -⟩ | ⟨complete, -⟩ | ⟨-, goesOn⟩
    · omega
    · omega
    · exact goesOn
  rcases d.afterByte_cases with ⟨-, gt, -⟩ | ⟨-, -, parsed⟩ | ⟨notFifth, -⟩ | ⟨notFifth, -⟩
  · omega
  · rw [parsed, goesOn]
  · exact absurd fifth notFifth
  · exact absurd fifth notFifth

theorem Decoder.afterByte_of_fifth_gt {d : Decoder} (fifth : d.fb.length = 5)
    (gt : d.cfg.maxPayloadBytes.toNat < (memRead16 d.fb 3).toNat) :
    d.afterByte = (d.reject .lengthViolations, none) := by
  rcases d.afterByte_cases with ⟨-, -, rejected⟩ | ⟨-, le, -⟩ | ⟨notFifth, -⟩ | ⟨notFifth, -⟩
  · exact rejected
  · omega
  · exact absurd fifth notFifth
  · exact absurd fifth notFifth

/-- Settles O43: the length field of the stored five bytes is their last two, and the two branches of the parse are
`Decoder.afterByte_of_fifth_le` and `Decoder.afterByte_of_fifth_gt`. -/
theorem feedParsesLength : Obligations.FeedParsesLength := by
  unfold Obligations.FeedParsesLength
  intro t s b0 b1 b2 b3 valid timed reading accepted last four cap
  have room : s.dec.fb.length < 521 := by simp [four]
  have five : (storeByte s.dec).fb = [b0, b1, b2, b3, completedByte s.dec] := by rw [storeByte_fb, four]; rfl
  have fifth : (storeByte s.dec).fb.length = 5 := by rw [five]; rfl
  have field : (memRead16 (storeByte s.dec).fb 3).toNat = b3.toNat * 256 + (completedByte s.dec).toNat := by
    rw [memRead16_toNat, five]; rfl
  rw [← field]
  refine exec_decFeed_of_silent (l := .off) ?_
  split
  case isTrue le =>
    have after := Decoder.afterByte_of_fifth_le fifth le cap
    have stillReading : ((storeByte s.dec).acceptLength (memRead16 (storeByte s.dec).fb 3).toNat).state = .readSpace :=
      reading
    rw [Decoder.feed_of_afterByte valid timed reading accepted last room after,
      Decoder.backToReadMark_of_readSpace stillReading, Decoder.goto, Decoder.acceptLength, five]
    rfl
  case isFalse gt =>
    have after := Decoder.afterByte_of_fifth_gt fifth (Nat.lt_of_not_le gt)
    rw [Decoder.feed_of_afterByte valid timed reading accepted last room after,
      Decoder.backToReadMark_of_idle (Decoder.reject_state _ _), Decoder.reject_eq_cleared]
    rfl

end Sys2Proof.Proofs
end

section
/-! The frame of a payload passes finalization (spec/44_decoder.md R163 to R165): the fields of a wire frame, and the byte that
completes it. -/

open Sys2Proof Sys2Proof.Machine

namespace Sys2Proof.Proofs

/-! ## The fields of a wire frame -/

/-- A 16-bit number written in two bytes is read back at the offset it was written to (R44). -/
theorem fieldAt_append_bigEndian (front back : List Byte) {n : Nat} (fits : n < 65536) :
    fieldAt (front ++ (bigEndian n ++ back)) front.length = n := by
  have high : byteAt (front ++ (bigEndian n ++ back)) front.length = n / 256 % 256 := by simp [byteAt, bigEndian]
  have low : byteAt (front ++ (bigEndian n ++ back)) (front.length + 1) = n % 256 := by simp [byteAt, bigEndian]
  rw [fieldAt, high, low]
  omega

theorem fieldAt_wireFrame_magic (cfg : ProtocolConfig) (payload : List Byte) :
    fieldAt (wireFrame cfg payload) 0 = cfg.magic.toNat := by
  simp only [wireFrame, List.append_assoc]
  exact fieldAt_append_bigEndian [] _ cfg.magic.isLt

theorem byteAt_wireFrame_version (cfg : ProtocolConfig) (payload : List Byte) :
    byteAt (wireFrame cfg payload) 2 = cfg.version.toNat := rfl

theorem fieldAt_wireFrame_length (cfg : ProtocolConfig) {payload : List Byte} (fits : payload.length < 65536) :
    fieldAt (wireFrame cfg payload) 3 = payload.length := by
  simp only [wireFrame, List.append_assoc (_ ++ [cfg.version])]
  exact fieldAt_append_bigEndian (bigEndian cfg.magic.toNat ++ [cfg.version]) _ fits

theorem fieldAt_wireFrame_crc (cfg : ProtocolConfig) (payload : List Byte) :
    fieldAt (wireFrame cfg payload) 5 = (crc16 payload).toNat := by
  simp only [wireFrame, List.append_assoc (_ ++ bigEndian payload.length)]
  exact fieldAt_append_bigEndian (bigEndian cfg.magic.toNat ++ [cfg.version] ++ bigEndian payload.length) _
    (crc16 payload).isLt

theorem fieldAt_wireFrame_ender (cfg : ProtocolConfig) (payload : List Byte) :
    fieldAt (wireFrame cfg payload) (7 + payload.length) = cfg.ender.toNat := by
  have ender := fieldAt_append_bigEndian (bigEndian cfg.magic.toNat ++ [cfg.version] ++ bigEndian payload.length
    ++ bigEndian (crc16 payload).toNat ++ payload) [] cfg.ender.isLt
  rw [List.append_nil, List.length_append] at ender
  exact ender

theorem payload_of_wireFrame (cfg : ProtocolConfig) (payload : List Byte) :
    ((wireFrame cfg payload).drop 7).take payload.length = payload := by
  simp [wireFrame, bigEndian]

/-! ## Finalization -/

/-- The frame of a payload within the cap passes the seven checks of R164. -/
theorem firstFailure_wireFrame {cfg : ProtocolConfig} {payload : List Byte}
    (le : payload.length ≤ cfg.maxPayloadBytes.toNat) : firstFailure cfg (wireFrame cfg payload) = none := by
  have fits : payload.length < 65536 := Nat.lt_of_le_of_lt le cfg.maxPayloadBytes.isLt
  simp [firstFailure, frameChecks, fieldAt_wireFrame_magic, byteAt_wireFrame_version, fieldAt_wireFrame_length cfg fits,
    fieldAt_wireFrame_crc, fieldAt_wireFrame_ender, payload_of_wireFrame, le]

/-- `Finalize()` on the frame of a payload within the cap is the success of that payload. -/
theorem Decoder.finalize_of_wireFrame {d : Decoder} {payload : List Byte} (frame : d.fb = wireFrame d.cfg payload)
    (le : payload.length ≤ d.cfg.maxPayloadBytes.toNat) : d.finalize = d.success payload.length := by
  have fits : payload.length < 65536 := Nat.lt_of_le_of_lt le d.cfg.maxPayloadBytes.isLt
  have length : (memRead16 d.fb 3).toNat = payload.length := by
    rw [frame, memRead16_toNat_eq_fieldAt (by rw [wireFrame_length]; omega), fieldAt_wireFrame_length d.cfg fits]
  have passes : firstFailure d.cfg d.fb = none := by rw [frame, firstFailure_wireFrame le]
  rw [Decoder.finalize_eq_firstFailure, passes, length]

/-- A byte that brings the frame to its expected length, other than the fifth, finalizes it (R163). -/
theorem Decoder.afterByte_of_complete {d : Decoder} (notFifth : d.fb.length ≠ 5) (known : d.lengthKnown = true)
    (complete : d.fb.length = d.expectedLen.toNat) : d.afterByte = d.finalize := by
  have finalized : d.checkSize = d.finalize := by
    rcases d.checkSize_cases with ⟨longer, -⟩ | ⟨-, finalized⟩ | ⟨shorter, -⟩
    · omega
    · exact finalized
    · omega
  rcases d.afterByte_cases with ⟨fifth, -⟩ | ⟨fifth, -⟩ | ⟨-, -, sized⟩ | ⟨-, unknown, -⟩
  · exact absurd fifth notFifth
  · exact absurd fifth notFifth
  · rw [sized, finalized]
  · rw [known] at unknown
    cases unknown

/-- The event of a frame is the payload's if a callback is registered (R165). -/
theorem Decoder.deliveryOf_of_wireFrame {d : Decoder} {payload : List Byte} (frame : d.fb = wireFrame d.cfg payload) :
    d.deliveryOf payload.length
      = if d.cbEn then some { payload := payload, length := payload.length, ctx := d.cbCtx } else none := by
  rw [Decoder.deliveryOf, frame, payload_of_wireFrame]

/-- What an event that may be absent puts out. -/
theorem toList_map_ite {α β : Type} (c : Bool) (f : α → β) (a : α) :
    ((if c then some a else none).map f).toList = if c then [f a] else [] := by
  cases c <;> rfl

/-- Settles O45: the stored byte completes the payload's frame, which is longer than five bytes, so that it is finalized, and
finalization succeeds (`Decoder.finalize_of_wireFrame`). -/
theorem feedDeliversGoodFrame : Obligations.FeedDeliversGoodFrame := by
  unfold Obligations.FeedDeliversGoodFrame
  intro t s payload valid timed reading accepted last room known complete le frame
  have stored : (storeByte s.dec).fb = wireFrame (storeByte s.dec).cfg payload := frame
  have length : (storeByte s.dec).fb.length = s.dec.fb.length + 1 := by rw [storeByte_fb, List.length_append]; rfl
  have notFifth : (storeByte s.dec).fb.length ≠ 5 := by rw [stored, wireFrame_length]; omega
  have after : (storeByte s.dec).afterByte = (storeByte s.dec).success payload.length := by
    rw [Decoder.afterByte_of_complete notFifth known (length.trans complete), Decoder.finalize_of_wireFrame stored le]
  have delivery : (storeByte s.dec).deliveryOf payload.length
      = if s.dec.cbEn then some { payload := payload, length := payload.length, ctx := s.dec.cbCtx } else none :=
    Decoder.deliveryOf_of_wireFrame stored
  have fed : s.dec.feed .off t = (clearedDecoder s.dec .idle (s.dec.stats.bump .framesDecoded),
      if s.dec.cbEn then some { payload := payload, length := payload.length, ctx := s.dec.cbCtx } else none) := by
    rw [← delivery, Decoder.feed_of_afterByte valid timed reading accepted last room after,
      Decoder.backToReadMark_of_idle rfl]
    rfl
  exact (exec_decFeed_of_feed (l := .off) fed).trans (by rw [toList_map_ite])

end Sys2Proof.Proofs
end

section
/-! The decoder's other operations (spec/44_decoder.md R166 to R168). -/

open Sys2Proof Sys2Proof.Machine

namespace Sys2Proof.Proofs

theorem Decoder.resetFrameState_eq_cleared (d : Decoder) :
    d.resetFrameState = clearedDecoder d .idle d.stats := rfl

theorem exec_decReset (s : State) :
    exec .decReset s = .next { s with dec := s.dec.resetFrameState, outs := s.outs ++ [okNone] } := rfl

theorem exec_decStats (s : State) :
    exec .decStats s = .next { s with
      outs := s.outs ++ [.response { status := .ok, data := .stats (packStats s.dec.stats) }] } := rfl

theorem exec_decSetcb (en : Bool) (ctx : Context) (s : State) :
    exec (.decSetcb en ctx) s
      = .next { s with dec := { s.dec with cbEn := en, cbCtx := ctx }, outs := s.outs ++ [okNone] } := rfl

/-- Settles O47: the row has no operands (`decode_code_append`), and `ResetFrameState()` clears the frame state and leaves the
counters. -/
theorem decResetClearsFrame : Obligations.DecResetClearsFrame := by
  unfold Obligations.DecResetClearsFrame
  refine ⟨fun _ => ?encoding, fun s => ?effect⟩
  case encoding => exact decode_code_append (op := .decReset) rfl
  case effect => rw [exec_decReset, Decoder.resetFrameState_eq_cleared]

/-- Each counter is read back from its 32 bits of the packed word (R69): the word is a concatenation whose last operand is the
lowest counter, so a read skips every counter below the one it is of. -/
theorem packStats_extractLsb' (t : Stats) (k : Counter) :
    (packStats t).extractLsb' (32 * counterIndex k) 32 = t.get k := by
  cases k <;>
    simp (disch := decide) only [packStats, counterIndex, Stats.get, BitVec.extractLsb'_append_eq_of_le,
      BitVec.extractLsb'_append_eq_right, BitVec.extractLsb'_eq_self, Nat.reduceSub, Nat.reduceMul]

/-- Settles O48: the row has no operands, and the packed word holds each counter at its place (`packStats_extractLsb'`). -/
theorem decStatsReturnsCounters : Obligations.DecStatsReturnsCounters := by
  unfold Obligations.DecStatsReturnsCounters
  refine ⟨fun _ => ?encoding, fun s => ⟨packStats s.dec.stats, exec_decStats s, fun k => ?counter⟩⟩
  case encoding => exact decode_code_append (op := .decStats) rfl
  case counter => rw [← extractLsb'_toNat_eq_div_mod, packStats_extractLsb']

/-- A bit of a word, in plain numbers. -/
theorem getLsbD_eq_decide_div_mod {w : Nat} (v : BitVec w) (i : Nat) :
    v.getLsbD i = decide (v.toNat / 2 ^ i % 2 = 1) := Nat.testBit_eq_decide_div_mod_eq

/-- Settles O49: the operands are the bit `arg[32]` and the field `arg[31:0]`; the effect is `exec_decSetcb`. -/
theorem decSetcbStoresCallback : Obligations.DecSetcbStoresCallback := by
  unfold Obligations.DecSetcbStoresCallback
  refine ⟨fun arg => ?encoding, exec_decSetcb⟩
  case encoding =>
    rw [← getLsbD_eq_decide_div_mod, ← extractLsb'_zero_eq_ofNat]
    exact decode_code_append (op := .decSetcb) rfl

end Sys2Proof.Proofs
end

section
/-! The round trip between instructions and packets, and the operand bits a format does not name (spec/30_encoding.md R60 to
R69). -/

open Sys2Proof Sys2Proof.Machine

namespace Sys2Proof.Proofs

/-! ## From an instruction to its packet and back -/

/-- A field that lies within a value is read from the operand field as from the value itself. -/
theorem extractLsb'_setWidth_of_le {w n k m : Nat} (v : BitVec w) (h : k + m ≤ n) :
    (v.setWidth n).extractLsb' k m = v.extractLsb' k m := by
  apply BitVec.eq_of_getLsbD_eq
  intro i hi
  have inside : k + i < n := by omega
  simp [inside]

/-- An operand that starts at `arg[0]` is read back whole. -/
theorem extractLsb'_zero_setWidth {w n : Nat} (v : BitVec w) (h : w ≤ n) : (v.setWidth n).extractLsb' 0 w = v := by
  rw [extractLsb'_setWidth_of_le v (by omega), BitVec.extractLsb'_eq_self]

/-- The one bit above a value it was written in front of. -/
theorem getLsbD_setWidth_ofBool_append {w n : Nat} (c : Bool) (v : BitVec w) (h : w < n) :
    ((BitVec.ofBool c ++ v : BitVec (1 + w)).setWidth n).getLsbD w = c := by
  rw [BitVec.getLsbD_setWidth, BitVec.getLsbD_append]
  simp [h]

/-- The word of an instruction announces the bytes that stand beside it, if they are as few as format P can announce. -/
theorem encodePayload_length {i : Instr} (wf : WellFormed i = true) :
    (encodePayload i).length = announcedLength i.op (encodeArg i) := by
  cases i with
  | encEncode payload =>
    have le : payload.length ≤ 65535 := by simpa [WellFormed] using wf
    simp only [encodePayload, announcedLength, Instr.op, encodeArg, extractLsb'_zero_setWidth _ (show 16 ≤ 176 by omega),
      BitVec.toNat_ofNat]
    omega
  | _ => rfl

/-- Reading the operands an instruction was written with gives the instruction. -/
theorem operands_encode (i : Instr) : operands i.op (encodeArg i) (encodePayload i) = i := by
  cases i with
  | crcByte byte => simp only [Instr.op, operands, encodeArg, extractLsb'_zero_setWidth _ (show 8 ≤ 176 by omega)]
  | symEnc sym => simp only [Instr.op, operands, encodeArg, extractLsb'_zero_setWidth _ (show 2 ≤ 176 by omega)]
  | symDec level => simp only [Instr.op, operands, encodeArg, extractLsb'_zero_setWidth _ (show 3 ≤ 176 by omega)]
  | encConfigure cfg => simp only [Instr.op, operands, encodeArg, unpackConfig_packConfig]
  | decConfigure cfg => simp only [Instr.op, operands, encodeArg, unpackConfig_packConfig]
  | decFeed level duration =>
    simp only [Instr.op, operands, encodeArg]
    rw [extractLsb'_setWidth_of_le _ (by omega), extractLsb'_setWidth_of_le _ (by omega),
      BitVec.extractLsb'_append_eq_left, BitVec.extractLsb'_append_eq_right]
  | decSetcb en ctx =>
    simp only [Instr.op, operands, encodeArg]
    rw [getLsbD_setWidth_ofBool_append _ _ (by omega), extractLsb'_setWidth_of_le _ (by omega),
      BitVec.extractLsb'_append_eq_right]
  | _ => rfl

/-- Settles O1: the word announces the bytes beside it (`encodePayload_length`), so the packet decodes to the operands of the
instruction's row (`decode_code_append`), which are the instruction's own (`operands_encode`). -/
theorem decodeOfEncode : Obligations.DecodeOfEncode := by
  unfold Obligations.DecodeOfEncode
  intro i wf
  exact (decode_code_append (encodePayload_length wf)).trans (congrArg _ (operands_encode i))

/-! ## From a packet to its instruction -/

theorem announcedLength_of_ne {op : Op} (h : op ≠ .encEncode) (arg : ArgField) : announcedLength op arg = 0 := by
  cases op with
  | encEncode => exact absurd rfl h
  | _ => rfl

theorem announcedLength_encEncode (arg : ArgField) : announcedLength .encEncode arg = arg.toNat % 2 ^ 16 := by
  rw [announcedLength, extractLsb'_toNat_eq_div_mod, Nat.pow_zero, Nat.div_one]

theorem encodePayload_operands_of_ne {op : Op} (h : op ≠ .encEncode) (arg : ArgField) (payload : List Byte) :
    encodePayload (operands op arg payload) = [] := by
  cases op with
  | encEncode => exact absurd rfl h
  | _ => rfl

theorem wellFormed_operands_of_ne {op : Op} (h : op ≠ .encEncode) (arg : ArgField) (payload : List Byte) :
    WellFormed (operands op arg payload) = true := by
  cases op with
  | encEncode => exact absurd rfl h
  | _ => rfl

/-- What is read from a packet of the announced length is a command, and carries the packet's bytes. -/
theorem operands_of_announced {op : Op} {arg : ArgField} {payload : List Byte}
    (announced : payload.length = announcedLength op arg) :
    WellFormed (operands op arg payload) = true ∧ encodePayload (operands op arg payload) = payload := by
  by_cases h : op = .encEncode
  · subst h
    rw [announcedLength_encEncode] at announced
    exact ⟨decide_eq_true (by omega), rfl⟩
  · rw [announcedLength_of_ne h] at announced
    exact ⟨wellFormed_operands_of_ne h _ _,
      (encodePayload_operands_of_ne h _ _).trans (List.length_eq_zero_iff.1 announced).symm⟩

/-- Settles O2: what decodes are the operands of the row the opcode names (`decode_eq_ok`), read beside as many bytes as
announced (`operands_of_announced`); its own encoding decodes by O1. -/
theorem decodedInstrReencodes : Obligations.DecodedInstrReencodes := by
  unfold Obligations.DecodedInstrReencodes
  intro p i decoded
  obtain ⟨op, opcode, announced, rfl⟩ := decode_eq_ok decoded
  obtain ⟨wf, payload⟩ := operands_of_announced announced
  exact ⟨wf, by rw [operands_op, opcode], payload, decodeOfEncode _ wf⟩

/-! ## The bits a format names -/

/-- Two words that agree under a mask agree on every field the mask covers. -/
theorem extractLsb'_eq_of_and_eq {w k n : Nat} {x y mask : BitVec w} (agree : x &&& mask = y &&& mask)
    (covered : mask.extractLsb' k n = BitVec.allOnes n) : x.extractLsb' k n = y.extractLsb' k n := by
  have fields := congrArg (BitVec.extractLsb' k n) agree
  rwa [BitVec.extractLsb'_and, BitVec.extractLsb'_and, covered, BitVec.and_allOnes, BitVec.and_allOnes] at fields

theorem getLsbD_eq_of_and_eq {w k : Nat} {x y mask : BitVec w} (agree : x &&& mask = y &&& mask)
    (covered : mask.getLsbD k = true) : x.getLsbD k = y.getLsbD k := by
  have bits := congrArg (BitVec.getLsbD · k) agree
  simpa only [BitVec.getLsbD_and, covered, Bool.and_true] using bits

/-- A record is read from the bits outside [103:99]. -/
theorem unpackConfig_eq_of_and_eq {x y : ArgField} (agree : x &&& namedBits .encConfigure = y &&& namedBits .encConfigure) :
    unpackConfig x = unpackConfig y := by
  have field : ∀ {k n : Nat}, (namedBits .encConfigure).extractLsb' k n = BitVec.allOnes n →
      x.extractLsb' k n = y.extractLsb' k n := extractLsb'_eq_of_and_eq agree
  simp only [unpackConfig, ProtocolConfig.mk.injEq]
  exact ⟨field (by decide), field (by decide), field (by decide), field (by decide), field (by decide), field (by decide),
    field (by decide), field (by decide), field (by decide), field (by decide), field (by decide), field (by decide)⟩

/-- How many bytes are announced, and the operands, depend on the named bits alone. -/
theorem announcedLength_eq_of_and_eq {op : Op} {x y : ArgField} (agree : x &&& namedBits op = y &&& namedBits op) :
    announcedLength op x = announcedLength op y := by
  cases op with
  | encEncode =>
    have field : x.extractLsb' 0 16 = y.extractLsb' 0 16 := extractLsb'_eq_of_and_eq agree (by decide)
    simp only [announcedLength, field]
  | _ => rfl

theorem operands_eq_of_and_eq {op : Op} {x y : ArgField} (agree : x &&& namedBits op = y &&& namedBits op)
    (payload : List Byte) : operands op x payload = operands op y payload := by
  have field : ∀ {k n : Nat}, (namedBits op).extractLsb' k n = BitVec.allOnes n →
      x.extractLsb' k n = y.extractLsb' k n := extractLsb'_eq_of_and_eq agree
  cases op with
  | crcByte => exact congrArg Instr.crcByte (field (by decide))
  | symEnc => exact congrArg Instr.symEnc (field (by decide))
  | symDec => exact congrArg Instr.symDec (field (by decide))
  | encConfigure => exact congrArg Instr.encConfigure (unpackConfig_eq_of_and_eq agree)
  | decConfigure => exact congrArg Instr.decConfigure (unpackConfig_eq_of_and_eq agree)
  | decFeed => exact congrArg₂ Instr.decFeed (field (by decide)) (field (by decide))
  | decSetcb => exact congrArg₂ Instr.decSetcb (getLsbD_eq_of_and_eq agree (by decide)) (field (by decide))
  | _ => rfl

/-- Settles O3: both words decode by the same row (`decode_of_op`), whose announced length and operands read named bits only. -/
theorem unnamedOperandBitsIgnored : Obligations.UnnamedOperandBitsIgnored := by
  unfold Obligations.UnnamedOperandBitsIgnored
  intro w w' payload op opcode opcode' agree
  rw [decode_of_op (p := ⟨w, payload⟩) opcode, decode_of_op (p := ⟨w', payload⟩) opcode',
    announcedLength_eq_of_and_eq agree, operands_eq_of_and_eq agree]

/-! ## Command words and packed values -/

/-- Settles O5: each word is computed. -/
theorem commandWordsDecode : Obligations.CommandWordsDecode := by
  unfold Obligations.CommandWordsDecode
  exact ⟨rfl, rfl, rfl, rfl, rfl, rfl, rfl⟩

/-- Settles O7: a packed change is a concatenation, its value the sum of its two parts (`toNat_append_add`); the counters are
read from the packed word by `packStats_extractLsb'`. -/
theorem packedChangeAndStatsLayout : Obligations.PackedChangeAndStatsLayout := by
  unfold Obligations.PackedChangeAndStatsLayout
  refine ⟨fun c => ?change, fun t k => ?stats⟩
  case change =>
    have durationLt : c.duration.toNat < 2 ^ 32 := c.duration.isLt
    rw [packChange, toNat_append_add]
    constructor <;> omega
  case stats => rw [← extractLsb'_toNat_eq_div_mod, packStats_extractLsb']

end Sys2Proof.Proofs
end

section
/-! What one operation does, said once: the next state of each subunit, the delivery event and the response
(spec/00_scope.md R12, R13; spec/20_memory.md R49, R53). -/

open Sys2Proof Sys2Proof.Machine

namespace Sys2Proof.Proofs

/-! ## The effect of an operation, subunit by subunit -/

/-- The CRC generator after an operation. -/
def crcAfter : Instr → CrcUnit → CrcUnit
  | .crcInit, _ => { acc := 0xFFFF }
  | .crcByte byte, c => { acc := crc16Step c.acc byte }
  | _, c => c

/-- The encoder after an operation. -/
def encAfter : Instr → Encoder → Encoder
  | .encConfigure cfg, e => e.configure cfg
  | .encEncode payload, e =>
    (encodePayloadBuffers e payload).elim { e with fb := [], out := [] } fun b => { e with fb := b.1, out := b.2 }
  | _, e => e

/-- The decoder after an operation. -/
def decAfter : Instr → Decoder → Decoder
  | .decConfigure cfg, d => d.configure cfg
  | .decFeed level t, d => (levelOfCode level).elim d fun l => (d.feed l t).1
  | .decReset, d => d.resetFrameState
  | .decSetcb en ctx, d => d.setCallback en ctx
  | _, d => d

/-- The delivery event of an operation. -/
def eventOf : Instr → Decoder → Option Delivery
  | .decFeed level t, d => (levelOfCode level).bind fun l => (d.feed l t).2
  | _, _ => none

/-- The response of an operation. -/
def responseOf : Instr → State → Response
  | .crcInit, _ | .crcByte _, _ | .decReset, _ | .decSetcb _ _, _ => { status := .ok, data := .none }
  | .crcRead, s => { status := .ok, data := .crc s.crc.acc }
  | .symEnc sym, _ => { status := .ok, data := .level (levelCode (symbolToColor sym)) }
  | .symDec level, _ =>
    (levelOfCode level).elim { status := .illegal, data := .sym 0 } fun l =>
      (colorToSymbol l).elim { status := .fail, data := .sym 0 } fun sym => { status := .ok, data := .sym sym }
  | .encConfigure cfg, _ | .decConfigure cfg, _ => { status := .ok, data := .valid (validConfig cfg) }
  | .encValid, s => { status := .ok, data := .valid s.enc.valid }
  | .encEncode payload, s =>
    (encodePayloadBuffers s.enc payload).elim { status := .fail, data := .changes 0 [] } fun b =>
      { status := .ok, data := .changes (BitVec.ofNat 13 b.2.length) (b.2.map packChange) }
  | .decValid, s => { status := .ok, data := .valid s.dec.valid }
  | .decFeed level _, _ =>
    (levelOfCode level).elim { status := .illegal, data := .none } fun _ => { status := .ok, data := .none }
  | .decStats, s => { status := .ok, data := .stats (packStats s.dec.stats) }
  | .decConfig, s => { status := .ok, data := .cfg (packConfig s.dec.cfg) }

theorem decAfter_decFeed (level : LevelCode) (t : Duration) (d : Decoder) :
    decAfter (.decFeed level t) d = (levelOfCode level).elim d fun l => (d.feed l t).1 := rfl

theorem decAfter_decFeed_levelCode (l : LightLevel) (t : Duration) (d : Decoder) :
    decAfter (.decFeed (levelCode l) t) d = (d.feed l t).1 := by
  rw [decAfter_decFeed, levelOfCode_levelCode, Option.elim_some]

theorem eventOf_decFeed (level : LevelCode) (t : Duration) (d : Decoder) :
    eventOf (.decFeed level t) d = (levelOfCode level).bind fun l => (d.feed l t).2 := rfl

/-- What an operation puts out: its event, if any, before its response. -/
def outputsOf (i : Instr) (s : State) : List Output :=
  ((eventOf i s.dec).map Output.deliver).toList ++ [.response (responseOf i s)]

/-- The state an operation leaves. -/
def afterOp (i : Instr) (s : State) : State :=
  { s with
    crc := crcAfter i s.crc
    enc := encAfter i s.enc
    dec := decAfter i s.dec
    outs := s.outs ++ outputsOf i s }

theorem exec_decFeed_of_no_level {c : LevelCode} (h : levelOfCode c = none) (t : Duration) (s : State) :
    exec (.decFeed c t) s = .next { s with outs := s.outs ++ [.response { status := .illegal, data := .none }] } := by
  simp only [exec, execDecFeed, h, State.illegal, State.respond]

/-- `ENC.ENCODE` that jumps to `fail` (R131). -/
theorem exec_encEncode_of_none {payload : List Byte} {s : State} (failed : encodePayloadBuffers s.enc payload = none) :
    exec (.encEncode payload) s = .next { s with
      enc := { s.enc with fb := [], out := [] }
      outs := s.outs ++ [.response { status := .fail, data := .changes 0 [] }] } := by
  simp only [exec, execEncEncode, failed, State.respond, State.withEnc]

/-- A read operation has a response and no other effect. -/
theorem afterOp_of_readOnly {i : Instr} (readOnly : isReadOnly i = true) (s : State) :
    afterOp i s = { s with outs := s.outs ++ [.response (responseOf i s)] } := by
  cases i with
  | crcRead | symEnc | symDec | encValid | decValid | decStats | decConfig => rfl
  | _ => cases readOnly

theorem exec_symDec_eq_afterOp (level : LevelCode) (s : State) :
    exec (.symDec level) s = .next (afterOp (.symDec level) s) := by
  rw [afterOp_of_readOnly rfl, responseOf]
  cases h : levelOfCode level with
  | none => exact exec_symDec_of_no_level h s
  | some l =>
    obtain rfl := levelCode_of_levelOfCode h
    cases hsym : colorToSymbol l with
    | none => simp only [exec_symDec_of_no_symbol hsym, hsym, Option.elim]
    | some sym => simp only [exec_symDec_of_symbol hsym, hsym, Option.elim]

/-- `ENC.ENCODE` by the buffers it built or failed to build. -/
theorem exec_encEncode_eq_afterOp (payload : List Byte) (s : State) :
    exec (.encEncode payload) s = .next (afterOp (.encEncode payload) s) := by
  cases h : encodePayloadBuffers s.enc payload with
  | none =>
    rw [exec_encEncode_of_none h, afterOp, outputsOf, encAfter, responseOf, h, Option.elim_none, Option.elim_none]
    rfl
  | some b =>
    rw [exec_encEncode_of_some h, afterOp, outputsOf, encAfter, responseOf, h, Option.elim_some, Option.elim_some]
    rfl

/-- `DEC.FEED` by its level, and then by what the state machine answers. -/
theorem exec_decFeed_eq_afterOp (level : LevelCode) (t : Duration) (s : State) :
    exec (.decFeed level t) s = .next (afterOp (.decFeed level t) s) := by
  rw [afterOp, outputsOf, decAfter_decFeed, eventOf_decFeed, responseOf]
  cases h : levelOfCode level with
  | none =>
    rw [exec_decFeed_of_no_level h, Option.elim_none, Option.elim_none, Option.bind_none]
    rfl
  | some l =>
    obtain rfl := levelCode_of_levelOfCode h
    have fed : s.dec.feed l t = ((s.dec.feed l t).1, (s.dec.feed l t).2) := rfl
    rw [exec_decFeed_of_feed fed, Option.elim_some, Option.elim_some, Option.bind_some, List.append_assoc]
    rfl

/-- Every operation answers a next state, and this one. -/
theorem exec_eq_afterOp (i : Instr) (s : State) : exec i s = .next (afterOp i s) := by
  cases i with
  | symDec level => exact exec_symDec_eq_afterOp level s
  | encEncode payload => exact exec_encEncode_eq_afterOp payload s
  | decFeed level t => exact exec_decFeed_eq_afterOp level t s
  | _ => rfl

theorem eq_afterOp_of_exec {i : Instr} {s t : State} (h : exec i s = .next t) : t = afterOp i s := by
  rw [exec_eq_afterOp] at h
  cases h
  rfl

/-! ## What the effect leaves alone, and what it depends on -/

theorem crcAfter_of_ne {i : Instr} (h : subunitOf i ≠ .crc) (c : CrcUnit) : crcAfter i c = c := by
  cases i with
  | crcInit | crcByte => exact absurd rfl h
  | _ => rfl

theorem encAfter_of_ne {i : Instr} (h : subunitOf i ≠ .enc) (e : Encoder) : encAfter i e = e := by
  cases i with
  | encConfigure | encEncode => exact absurd rfl h
  | _ => rfl

theorem decAfter_of_ne {i : Instr} (h : subunitOf i ≠ .dec) (d : Decoder) : decAfter i d = d := by
  cases i with
  | decConfigure | decFeed | decReset | decSetcb => exact absurd rfl h
  | _ => rfl

/-- The outputs depend on the state of the operation's own subunit alone. -/
theorem outputsOf_congr {i : Instr} {s t : State} (crc : subunitOf i = .crc → s.crc = t.crc)
    (enc : subunitOf i = .enc → s.enc = t.enc) (dec : subunitOf i = .dec → s.dec = t.dec) :
    outputsOf i s = outputsOf i t := by
  cases h : subunitOf i with
  | crc => have same := crc h; cases i <;> cases h <;> simp only [outputsOf, eventOf, responseOf, same]
  | enc => have same := enc h; cases i <;> cases h <;> simp only [outputsOf, eventOf, responseOf, same]
  | dec => have same := dec h; cases i <;> cases h <;> simp only [outputsOf, eventOf, responseOf, same]
  | codec => cases i <;> cases h <;> rfl

/-- The port takes no part in an operation. -/
theorem afterOp_withPort (i : Instr) (s : State) (q : List Packet) :
    afterOp i { s with port := q } = { afterOp i s with port := q } := by
  have outputs : outputsOf i { s with port := q } = outputsOf i s :=
    outputsOf_congr (fun _ => rfl) (fun _ => rfl) (fun _ => rfl)
  simp only [afterOp, outputs]

/-- Settles O54: `afterOp` writes each subunit by the operation's own part, which is the identity for the others. -/
theorem operationChangesOwnSubunitOnly : Obligations.OperationChangesOwnSubunitOnly := by
  unfold Obligations.OperationChangesOwnSubunitOnly
  intro i s t done
  obtain rfl := eq_afterOp_of_exec done
  exact ⟨fun h => crcAfter_of_ne h _, fun h => encAfter_of_ne h _, fun h => decAfter_of_ne h _, rfl,
    outputsOf i s, rfl⟩

/-! ## Two operations on different subunits -/

/-- Of two operations on different subunits one leaves a given subunit alone. -/
theorem comp_comm_of_ne {α : Type} {f : Instr → α → α} {u : Subunit} (frame : ∀ {i}, subunitOf i ≠ u → ∀ a, f i a = a)
    {i j : Instr} (h : subunitOf i ≠ subunitOf j) (a : α) : f j (f i a) = f i (f j a) := by
  by_cases own : subunitOf i = u
  · have other : subunitOf j ≠ u := fun hj => h (own.trans hj.symm)
    rw [frame other, frame other]
  · rw [frame own, frame own]

/-- An operation puts out the same after one on another subunit as before it. -/
theorem outputsOf_afterOp_of_ne {i j : Instr} (h : subunitOf i ≠ subunitOf j) (s : State) :
    outputsOf j (afterOp i s) = outputsOf j s :=
  outputsOf_congr (fun hj => crcAfter_of_ne (hj ▸ h) _) (fun hj => encAfter_of_ne (hj ▸ h) _)
    (fun hj => decAfter_of_ne (hj ▸ h) _)

/-- Settles O55: each subunit is written by at most one of the two (`comp_comm_of_ne`), and neither's outputs depend on the
other (`outputsOf_afterOp_of_ne`). -/
theorem differentSubunitsCommute : Obligations.DifferentSubunitsCommute := by
  unfold Obligations.DifferentSubunitsCommute
  intro i j s h
  refine ⟨afterOp i s, afterOp j s, afterOp j (afterOp i s), afterOp i (afterOp j s), outputsOf i s, outputsOf j s,
    exec_eq_afterOp _ _, exec_eq_afterOp _ _, exec_eq_afterOp _ _, exec_eq_afterOp _ _,
    comp_comm_of_ne crcAfter_of_ne h _, comp_comm_of_ne encAfter_of_ne h _, comp_comm_of_ne decAfter_of_ne h _,
    rfl, rfl, ?ij, ?ji⟩
  case ij => rw [← outputsOf_afterOp_of_ne h s]; rfl
  case ji => rw [← outputsOf_afterOp_of_ne h.symm s]; rfl

/-! ## Read operations -/

theorem exec_of_readOnly {i : Instr} (readOnly : isReadOnly i = true) (s : State) :
    exec i s = .next { s with outs := s.outs ++ [.response (responseOf i s)] } := by
  rw [exec_eq_afterOp, afterOp_of_readOnly readOnly]

/-- Settles O56: the second of two reads finds the state of the first but for the response put out, on which no response
depends. -/
theorem readOperationsChangeNothing : Obligations.ReadOperationsChangeNothing := by
  unfold Obligations.ReadOperationsChangeNothing
  intro i s readOnly
  refine ⟨responseOf i s, exec_of_readOnly readOnly s, ?twice⟩
  case twice =>
    have unchanged : responseOf i { s with outs := s.outs ++ [.response (responseOf i s)] } = responseOf i s := by
      cases i <;> rfl
    rw [execAll_cons_of_next (exec_of_readOnly readOnly s), execAll_cons_of_next (exec_of_readOnly readOnly _), unchanged,
      List.append_assoc]
    rfl

/-! ## One answer each -/

/-- Only `DEC.FEED` of a level has an event, that of the state machine. -/
theorem eventOf_eq_some {i : Instr} {d : Decoder} {e : Delivery} (h : eventOf i d = some e) :
    ∃ l t, i = .decFeed (levelCode l) t ∧ (d.feed l t).2 = some e := by
  cases i with
  | decFeed level t =>
    obtain ⟨l, hl, he⟩ := Option.bind_eq_some_iff.1 h
    exact ⟨l, t, by rw [levelCode_of_levelOfCode hl], he⟩
  | _ => cases h

theorem responseOf_decFeed (l : LightLevel) (t : Duration) (s : State) :
    responseOf (.decFeed (levelCode l) t) s = { status := .ok, data := .none } := by
  simp only [responseOf, levelOfCode_levelCode, Option.elim]

/-- `SYM.DEC` by its operand: a reserved code, Off, or a colour. -/
theorem responseOf_symDec_cases (level : LevelCode) (s : State) :
    (5 ≤ level.toNat ∧ (responseOf (.symDec level) s).status = .illegal)
    ∨ (level = 0 ∧ (responseOf (.symDec level) s).status = .fail)
    ∨ (responseOf (.symDec level) s).status = .ok := by
  by_cases reserved : 5 ≤ level.toNat
  · exact .inl ⟨reserved, by simp [responseOf, levelOfCode_reserved reserved]⟩
  obtain ⟨l, hl, rfl⟩ := exists_level_of_le (c := level) (by omega)
  cases hsym : colorToSymbol l with
  | none => exact .inr (.inl ⟨levelCode_eq_zero.2 (colorToSymbol_eq_none.1 hsym), by simp [responseOf, hl, hsym]⟩)
  | some sym => exact .inr (.inr (by simp [responseOf, hl, hsym]))

/-- Only `ENC.ENCODE` and `SYM.DEC` of Off fail. -/
theorem eq_of_status_fail {i : Instr} {s : State} (h : (responseOf i s).status = .fail) :
    (∃ payload, i = .encEncode payload) ∨ i = .symDec 0 := by
  cases i with
  | encEncode payload => exact .inl ⟨payload, rfl⟩
  | symDec level =>
    rcases responseOf_symDec_cases level s with ⟨-, hs⟩ | ⟨rfl, -⟩ | hs
    · rw [hs] at h; cases h
    · exact .inr rfl
    · rw [hs] at h; cases h
  | decFeed level t =>
    rw [responseOf] at h
    cases hl : levelOfCode level <;> rw [hl] at h <;> cases h
  | _ => cases h

/-- Only an operation with a reserved level code is turned away. -/
theorem eq_of_status_illegal {i : Instr} {s : State} (h : (responseOf i s).status = .illegal) :
    ∃ level : LevelCode, 5 ≤ level.toNat ∧ (i = .symDec level ∨ ∃ t, i = .decFeed level t) := by
  cases i with
  | encEncode payload =>
    rw [responseOf] at h
    cases hb : encodePayloadBuffers s.enc payload <;> rw [hb] at h <;> cases h
  | symDec level =>
    rcases responseOf_symDec_cases level s with ⟨reserved, -⟩ | ⟨-, hs⟩ | hs
    · exact ⟨level, reserved, .inl rfl⟩
    · rw [hs] at h; cases h
    · rw [hs] at h; cases h
  | decFeed level t =>
    refine ⟨level, ?_, .inr ⟨t, rfl⟩⟩
    by_contra notReserved
    obtain ⟨l, -, rfl⟩ := exists_level_of_le (c := level) (by omega)
    rw [responseOf_decFeed] at h
    cases h
  | _ => cases h

/-- Settles O11: the operation's outputs are its event, if any, and its response (`exec_eq_afterOp`); only `DEC.FEED` has an
event (`eventOf_eq_some`). -/
theorem everyOperationAnswersOnce : Obligations.EveryOperationAnswersOnce := by
  unfold Obligations.EveryOperationAnswersOnce
  intro i s
  refine ⟨afterOp i s, responseOf i s, exec_eq_afterOp i s, ?outputs, eq_of_status_fail, eq_of_status_illegal⟩
  case outputs =>
    cases event : eventOf i s.dec with
    | none => exact .inl (by simp [afterOp, outputsOf, event])
    | some e =>
      obtain ⟨l, t, rfl, -⟩ := eventOf_eq_some event
      exact .inr ⟨levelCode l, t, e, rfl, by rw [responseOf_decFeed], by simp [afterOp, outputsOf, event]⟩

end Sys2Proof.Proofs
end

section
/-! The step: one command taken from the port, decoded and performed (spec/00_scope.md R7; spec/20_memory.md R53). -/

open Sys2Proof Sys2Proof.Machine

namespace Sys2Proof.Proofs

/-- The step on a packet that decodes takes the packet and performs the operation. -/
theorem step_of_decode_ok {s : State} {p : Packet} {rest : List Packet} {i : Instr} (hport : s.port = p :: rest)
    (hdec : decode p = .ok i) : step s = exec i { s with port := rest } := by
  have taken : takeCommand s = some (p, { s with port := rest }) := takeCommand_eq_some.2 ⟨rest, hport, rfl⟩
  rw [step, taken]
  dsimp only
  rw [hdec]

/-- Settles O8, by `step_of_decode_ok`. -/
theorem stepRunsDecodedInstr : Obligations.StepRunsDecodedInstr := by
  unfold Obligations.StepRunsDecodedInstr
  intro s p rest i hport hdec
  exact step_of_decode_ok hport hdec

/-- Settles O9: with no command to take the step is `idleStep`. -/
theorem idleBlockKeepsState : Obligations.IdleBlockKeepsState := by
  unfold Obligations.IdleBlockKeepsState
  intro s idle
  rw [step, takeCommand_eq_none.2 idle]
  rfl

/-! ## Where the machine stops -/

/-- The announced length of a row, in plain numbers of the whole word. -/
theorem announcedLength_argField (op : Op) (w : CommandWord) :
    announcedLength op (argField w) = if op = .encEncode then w.toNat % 2 ^ 16 else 0 := by
  split
  case isTrue h =>
    rw [h, announcedLength_encEncode, argField, extractLsb'_toNat_eq_div_mod]
    omega
  case isFalse h => exact announcedLength_of_ne h _

/-- Settles O10: a defined opcode with another length is the one packet `step` faults on. An empty port, an undefined opcode
(O4's error) and a packet of the announced length each lead to a next state, the last because every operation does
(`exec_eq_afterOp`). -/
theorem stepStopsOnMalformedPacketOnly : Obligations.StepStopsOnMalformedPacketOnly := by
  unfold Obligations.StepStopsOnMalformedPacketOnly
  refine fun s => ⟨?stops, fun notMalformed => ?goesOn⟩
  case stops =>
    rintro ⟨p, rest, op, hport, opcode, mismatch⟩
    rw [← announcedLength_argField] at mismatch
    have hdec := decode_of_op opcode
    rw [if_neg mismatch] at hdec
    rw [step_of_decode_error hport hdec]
    rfl
  case goesOn =>
    cases hport : s.port with
    | nil => exact ⟨s, idleBlockKeepsState s hport⟩
    | cons p rest =>
      cases hop : Op.ofCode (opField p.word) with
      | none => exact ⟨_, step_of_decode_error hport (decode_of_ofCode_eq_none hop)⟩
      | some op =>
        have opcode : opField p.word = op.code := (Op.code_of_ofCode hop).symm
        have announced : p.payload.length = announcedLength op (argField p.word) := by
          rw [announcedLength_argField]
          by_contra mismatch
          exact notMalformed ⟨p, rest, op, hport, opcode, mismatch⟩
        have hdec := decode_of_op opcode
        rw [if_pos announced] at hdec
        exact ⟨_, (step_of_decode_ok hport hdec).trans (exec_eq_afterOp _ _)⟩

/-! ## Runs -/

/-- A step on the packet of a well-formed instruction. -/
theorem step_encode {i : Instr} (wf : WellFormed i = true) (s : State) (q : List Packet) :
    step { s with port := encode i :: q } = .next { afterOp i s with port := q } := by
  rw [step_of_decode_ok rfl (decodeOfEncode i wf), exec_eq_afterOp, afterOp_withPort, afterOp_withPort]

/-- Settles O12, by induction on the operations: each step takes one packet and performs its operation (`step_encode`), which
does the same whatever is left at the port (`afterOp_withPort`). -/
theorem runPerformsOperationsInOrder : Obligations.RunPerformsOperationsInOrder := by
  unfold Obligations.RunPerformsOperationsInOrder
  intro is s rest wf
  induction is generalizing s with
  | nil => rfl
  | cons i is ih =>
    have first : core.step { s with port := (i :: is).map encode ++ rest }
        = .next { afterOp i s with port := is.map encode ++ rest } :=
      step_encode (wf i List.mem_cons_self) s _
    have others := ih (afterOp i s) fun j hj => wf j (List.mem_cons_of_mem i hj)
    rw [List.length_cons, run_succ_of_step first, others, execAll_cons_of_next (exec_eq_afterOp i _),
      afterOp_withPort i s rest]

end Sys2Proof.Proofs
end

section
/-! The CRC step in plain numbers, and that it loses nothing: the step is one to one in the register and in the byte
(spec/40_crc16.md R91, R92). -/

open Sys2Proof Sys2Proof.Machine

namespace Sys2Proof.Proofs

/-! ## The eight shifts -/

/-- One shift as a number: doubled modulo 2^16, with the polynomial where bit 15 was set. -/
theorem crc16Shift_toNat (c : BitVec 16) :
    (crc16Shift c).toNat
      = if c.toNat / 2 ^ 15 = 1 then (c.toNat * 2 % 2 ^ 16) ^^^ 0x1021 else c.toNat * 2 % 2 ^ 16 := by
  have doubled : (c <<< 1).toNat = c.toNat * 2 % 2 ^ 16 := by rw [BitVec.toNat_shiftLeft, Nat.shiftLeft_eq]
  have top : c.getLsbD 15 = true ↔ c.toNat / 2 ^ 15 = 1 := by
    have := c.isLt
    rw [getLsbD_eq_decide_div_mod, decide_eq_true_eq]
    omega
  by_cases h : c.getLsbD 15 = true
  · rw [crc16Shift, if_pos h, if_pos (top.1 h), BitVec.toNat_xor, doubled]
    rfl
  · rw [crc16Shift, if_neg h, if_neg (mt top.2 h), doubled]

theorem crc16Shifts_eq_iterate (n : Nat) (c : BitVec 16) : crc16Shifts n c = crc16Shift^[n] c := by
  induction n generalizing c with
  | zero => rfl
  | succ n ih => exact ih (crc16Shift c)

/-- Settles O17: the nine numbers are those of the iterates of `crc16Shift`, each next by `crc16Shift_toNat`. -/
theorem crcStepIsEightShifts : Obligations.CrcStepIsEightShifts := by
  unfold Obligations.CrcStepIsEightShifts
  intro c b
  refine ⟨fun n => (crc16Shift^[n] (c ^^^ (b.setWidth 16 <<< 8))).toNat, ?start, fun n _ => ?next, ?last⟩
  case start =>
    have byteLt : b.toNat < 2 ^ 8 := b.isLt
    have shifted : (b.setWidth 16 <<< 8).toNat = b.toNat * 256 := by
      rw [BitVec.toNat_shiftLeft, BitVec.toNat_setWidth, Nat.shiftLeft_eq]
      omega
    dsimp only
    rw [Function.iterate_zero_apply, BitVec.toNat_xor, shifted]
  case next =>
    dsimp only
    rw [Function.iterate_succ_apply', crc16Shift_toNat]
  case last => rw [crc16Step, crc16Shifts_eq_iterate]

/-! ## Error detection -/

/-- Bit 0 of a shifted register tells which bit was shifted out: doubling leaves it 0, and the polynomial has it set. -/
theorem crc16Shift_getLsbD_zero (c : BitVec 16) : (crc16Shift c).getLsbD 0 = c.getLsbD 15 := by
  by_cases h : c.getLsbD 15 = true
  · rw [crc16Shift, if_pos h, h]
    simp [crcPolynomial]
  · rw [crc16Shift, if_neg h, Bool.eq_false_iff.2 h]
    simp

theorem crc16Shift_injective : Function.Injective crc16Shift := by
  intro c c' same
  have top : c.getLsbD 15 = c'.getLsbD 15 := by
    rw [← crc16Shift_getLsbD_zero, ← crc16Shift_getLsbD_zero, same]
  have doubled : c <<< 1 = c' <<< 1 := by
    cases h : c.getLsbD 15 with
    | false => rwa [crc16Shift, crc16Shift, ← top, h] at same
    | true =>
      rw [crc16Shift, crc16Shift, ← top, h] at same
      exact (BitVec.xor_left_inj _).1 same
  apply BitVec.eq_of_getElem_eq
  intro i hi
  by_cases last : i = 15
  · subst last
    exact top
  · have inside : i + 1 < 16 := by omega
    simpa [inside] using congrArg (BitVec.getLsbD · (i + 1)) doubled

theorem crc16Step_eq_iterate (c : BitVec 16) (b : Byte) :
    crc16Step c b = crc16Shift^[8] (c ^^^ (b.setWidth 16 <<< 8)) := crc16Shifts_eq_iterate 8 _

theorem crc16Step_left_injective (b : Byte) : Function.Injective (crc16Step · b) := by
  intro c c' same
  simp only [crc16Step_eq_iterate] at same
  exact (BitVec.xor_left_inj _).1 (crc16Shift_injective.iterate 8 same)

theorem crc16Step_right_injective (c : BitVec 16) : Function.Injective (crc16Step c) := by
  intro b b' same
  rw [crc16Step_eq_iterate, crc16Step_eq_iterate] at same
  have shifted : b.setWidth 16 <<< 8 = b'.setWidth 16 <<< 8 :=
    (BitVec.xor_right_inj _).1 (crc16Shift_injective.iterate 8 same)
  have values := congrArg BitVec.toNat shifted
  have := b.isLt
  have := b'.isLt
  simp only [BitVec.toNat_shiftLeft, BitVec.toNat_setWidth, Nat.shiftLeft_eq] at values
  exact BitVec.eq_of_toNat_eq (by omega)

/-- Two registers that differ stay different over the same bytes. -/
theorem crc16From_left_injective (bytes : List Byte) : Function.Injective (crc16From · bytes) := by
  induction bytes with
  | nil => exact fun _ _ same => same
  | cons b bytes ih =>
    intro c c' same
    simp only [crc16From_cons] at same
    exact crc16Step_left_injective b (ih same)

/-- Settles O19: the bytes before lead to one register, from which the differing bytes lead to different ones
(`crc16Step_right_injective`), and these stay different over the bytes after (`crc16From_left_injective`). -/
theorem crcDetectsOneWrongByte : Obligations.CrcDetectsOneWrongByte := by
  unfold Obligations.CrcDetectsOneWrongByte
  intro before after b b' differ same
  rw [crc16, crc16, crc16From_append, crc16From_append, crc16From_cons, crc16From_cons] at same
  exact differ (crc16Step_right_injective _ (crc16From_left_injective after same))

end Sys2Proof.Proofs
end

section
/-! Tables, predicates and the arithmetic of timing in plain numbers (spec/41_symbol_codec.md R101;
spec/42_config_tolerance.md R110 to R114; spec/44_decoder.md R152; spec/60_exceptions.md R181). -/

open Sys2Proof Sys2Proof.Machine

namespace Sys2Proof.Proofs

/-- Every colour but Off has a symbol, and is the colour of it. -/
theorem exists_symbol_of_ne_off {l : LightLevel} (colour : l ≠ .off) :
    ∃ sym, colorToSymbol l = some sym ∧ symbolToColor sym = l := by
  cases l with
  | off => exact absurd rfl colour
  | white => exact ⟨3, rfl, rfl⟩
  | red => exact ⟨0, rfl, rfl⟩
  | green => exact ⟨1, rfl, rfl⟩
  | blue => exact ⟨2, rfl, rfl⟩

/-- Settles O22: the two tables list the same four pairs, without Off. -/
theorem symbolTablesInverse : Obligations.SymbolTablesInverse := by
  unfold Obligations.SymbolTablesInverse
  exact ⟨colorToSymbol_symbolToColor, fun _ => exists_symbol_of_ne_off, rfl⟩

theorem isColourCode_iff (c : LevelCode) : isColourCode c = true ↔ 1 ≤ c.toNat ∧ c.toNat ≤ 4 := by
  revert c
  decide

/-- Settles O23: `validConfig` is the conjunction of its nine tests, of which the last is `isColourCode_iff`. -/
theorem validConfigPredicate : Obligations.ValidConfigPredicate := by
  unfold Obligations.ValidConfigPredicate
  intro c
  simp only [validConfig, Bool.and_eq_true, decide_eq_true_eq, isColourCode_iff, and_assoc]
  exact Iff.rfl

/-- Settles O50: `bump` writes the counter it names (`Stats.get_bump`), with the saturating increment. -/
theorem bumpSaturates : Obligations.BumpSaturates := by
  unfold Obligations.BumpSaturates
  intro t k j
  rw [Stats.get_bump, apply_ite BitVec.toNat, saturatingInc_toNat]

/-! ## Matching and quantizing -/

theorem absDiff_eq_natAbs (a b : Nat) : absDiff a b = ((a : Int) - (b : Int)).natAbs := by
  rw [absDiff]
  split <;> omega

theorem tolerance_eq (cfg : ProtocolConfig) (expected : Nat) :
    tolerance cfg expected = max 1 ((2 * expected * max cfg.allowedDriftPermille.toNat 10 + 1000) / 2000) := by
  rw [tolerance, roundHalfUp, effectiveDrift, Config.driftDen, Nat.mul_assoc]

theorem unitsMatch_iff (cfg : ProtocolConfig) (units expected : Nat) :
    unitsMatch cfg units expected = true ↔ ((units : Int) - (expected : Int)).natAbs ≤ tolerance cfg expected := by
  rw [unitsMatch, decide_eq_true_eq, absDiff_eq_natAbs]

/-- Settles O24, by `tolerance_eq` and `unitsMatch_iff`. -/
theorem unitMatchTolerance : Obligations.UnitMatchTolerance := by
  unfold Obligations.UnitMatchTolerance
  intro cfg units expected
  exact ⟨tolerance_eq cfg expected, by rw [unitsMatch_iff, tolerance_eq]⟩

theorem timingInvalid_iff (cfg : ProtocolConfig) (t : Duration) :
    timingInvalid cfg t = true ↔ unitsOf cfg t = 0
      ∨ max cfg.allowedDriftPermille.toNat 10 * cfg.unitDurationMicros.toNat
          < 1000 * ((t.toNat : Int) - (unitsOf cfg t * cfg.unitDurationMicros.toNat : Nat)).natAbs := by
  rw [timingInvalid, Bool.or_eq_true, decide_eq_true_eq, decide_eq_true_eq, absDiff_eq_natAbs]
  exact Iff.rfl

/-- Rounding half up is off by at most half the divisor, unless it yields nothing. -/
theorem roundHalfUp_error {n d : Nat} (pos : 1 ≤ roundHalfUp n d) :
    2 * ((n : Int) - (roundHalfUp n d * d : Nat)).natAbs ≤ d := by
  have divisorPos : 0 < 2 * d := by
    rcases Nat.eq_zero_or_pos d with rfl | h
    · simp [roundHalfUp] at pos
    · omega
  have quotient : 2 * d * roundHalfUp n d + (2 * n + d) % (2 * d) = 2 * n + d := Nat.div_add_mod _ _
  have remainder : (2 * n + d) % (2 * d) < 2 * d := Nat.mod_lt _ divisorPos
  rw [Nat.mul_assoc, Nat.mul_comm d] at quotient
  omega

/-- Settles O33: the rounding is `roundHalfUp`, the test `timingInvalid_iff`, the bound `roundHalfUp_error`; the quotient is 0
exactly when the dividend is below the divisor. -/
theorem quantizerFormula : Obligations.QuantizerFormula := by
  unfold Obligations.QuantizerFormula
  intro cfg t unitPos
  refine ⟨rfl, timingInvalid_iff cfg t, roundHalfUp_error, ?zero⟩
  case zero =>
    rw [unitsOf, roundHalfUp, Nat.div_eq_zero_iff]
    omega

/-- Settles O34: with the numbers of the default record each side is linear arithmetic; the multiple is the number of units. -/
theorem defaultTimingWindows : Obligations.DefaultTimingWindows := by
  unfold Obligations.DefaultTimingWindows
  refine ⟨fun t => ?timing, fun units => ?windows⟩
  case timing =>
    have units : unitsOf Config.defaults t = (2 * t.toNat + 600) / 1200 := rfl
    have unit : Config.defaults.unitDurationMicros.toNat = 600 := rfl
    have drift : max Config.defaults.allowedDriftPermille.toNat 10 = 200 := rfl
    rw [← Bool.not_eq_true, timingInvalid_iff, units, unit, drift]
    constructor
    · intro valid
      exact ⟨(2 * t.toNat + 600) / 1200, by omega, by omega, by omega⟩
    · rintro ⟨k, pos, low, high⟩
      have exactly : (2 * t.toNat + 600) / 1200 = k := by omega
      omega
  case windows =>
    have t16 : tolerance Config.defaults 16 = 3 := by decide
    have t8 : tolerance Config.defaults 8 = 2 := by decide
    have t1 : tolerance Config.defaults 1 = 1 := by decide
    rw [unitsMatch_iff, unitsMatch_iff, unitsMatch_iff, t16, t8, t1]
    omega

end Sys2Proof.Proofs
end

section
/-! `ENC.ENCODE`: its failure, and the shape and the durations of what it puts out (spec/43_encoder.md R131, R136, R140). -/

open Sys2Proof Sys2Proof.Machine

namespace Sys2Proof.Proofs

/-- Settles O30: each cause is one of the two checks on which the buffers are not built (`encodePayloadBuffers_eq_none`). -/
theorem encodeFailsCleanly : Obligations.EncodeFailsCleanly := by
  unfold Obligations.EncodeFailsCleanly
  intro payload s cause
  exact exec_encEncode_of_none (encodePayloadBuffers_eq_none.2 cause)

/-- The signal changes of a row of symbols: preamble, a mark and a space for each, gap. -/
def changesOf (cfg : ProtocolConfig) (syms : List Sym) : List SignalChange :=
  preambleChanges cfg ++ syms.flatMap (symbolChanges cfg) ++ gapChanges cfg

theorem changesOf_symbolsOfByte (cfg : ProtocolConfig) (frame : List Byte) :
    changesOf cfg (frame.flatMap symbolsOfByte)
      = preambleChanges cfg ++ frame.flatMap (byteChanges cfg) ++ gapChanges cfg := by
  rw [changesOf, List.flatMap_assoc]
  rfl

/-- `ENC.ENCODE` within the cap: its output are the changes of the frame's symbols. -/
theorem exec_encEncode_of_le {payload : List Byte} {s : State} (valid : s.enc.valid = true)
    (fits : payload.length ≤ encodeCap s.enc.cfg) :
    ∃ t, exec (.encEncode payload) s = .next t
      ∧ t.enc.out = changesOf s.enc.cfg ((frameBytes s.enc.cfg payload).flatMap symbolsOfByte) := by
  rw [changesOf_symbolsOfByte]
  exact ⟨_, exec_encEncode_of_some (encodePayloadBuffers_of_le valid fits), rfl⟩

/-! ## The shape -/

theorem flatMap_symbolsOfByte_length (bs : List Byte) : (bs.flatMap symbolsOfByte).length = 4 * bs.length := by
  induction bs with
  | nil => rfl
  | cons b bs ih =>
    rw [List.flatMap_cons, List.length_append, ih, List.length_cons]
    exact (Nat.add_comm 4 _)

theorem flatMap_symbolChanges_length (cfg : ProtocolConfig) (syms : List Sym) :
    (syms.flatMap (symbolChanges cfg)).length = 2 * syms.length := by
  induction syms with
  | nil => rfl
  | cons sym syms ih =>
    rw [List.flatMap_cons, List.length_append, ih, List.length_cons]
    exact (Nat.add_comm 2 _)

theorem changesOf_length (cfg : ProtocolConfig) (syms : List Sym) : (changesOf cfg syms).length = 2 * syms.length + 3 := by
  rw [changesOf, List.length_append, List.length_append, flatMap_symbolChanges_length, preambleChanges_length,
    gapChanges_length]
  omega

/-- The entries of a row of pairs: the first of pair `k` stands at `2k`, the second after it. -/
theorem getElem?_flatMap_pair {α β : Type} {f : α → List β} {g h : α → β} (pair : ∀ a, f a = [g a, h a]) (l : List α)
    (k : Nat) : (l.flatMap f)[2 * k]? = l[k]?.map g ∧ (l.flatMap f)[2 * k + 1]? = l[k]?.map h := by
  induction l generalizing k with
  | nil => exact ⟨rfl, rfl⟩
  | cons a l ih =>
    rw [List.flatMap_cons, pair]
    cases k with
    | zero => exact ⟨rfl, rfl⟩
    | succ k => exact ih k

/-- Behind the preamble, and before the gap, stand the changes of the symbols. -/
theorem changesOf_getElem? (cfg : ProtocolConfig) {syms : List Sym} {j : Nat} (h : j < 2 * syms.length) :
    (changesOf cfg syms)[2 + j]? = (syms.flatMap (symbolChanges cfg))[j]? := by
  rw [changesOf, List.append_assoc, List.getElem?_append_right (Nat.le_add_right 2 j), preambleChanges_length,
    Nat.add_sub_cancel_left, List.getElem?_append_left (by rwa [flatMap_symbolChanges_length])]

/-- The two changes of symbol `k`: a colour and Off. -/
theorem changesOf_symbol (cfg : ProtocolConfig) {syms : List Sym} {k : Nat} (h : k < syms.length) :
    (∃ c, (changesOf cfg syms)[2 + 2 * k]? = some c ∧ 1 ≤ c.level.toNat ∧ c.level.toNat ≤ 4)
    ∧ ∃ c, (changesOf cfg syms)[3 + 2 * k]? = some c ∧ c.level = 0 := by
  obtain ⟨mark, space⟩ := getElem?_flatMap_pair (f := symbolChanges cfg) (fun _ => rfl) syms k
  have colour : ∀ sym, 1 ≤ (levelCode (symbolToColor sym)).toNat ∧ (levelCode (symbolToColor sym)).toNat ≤ 4 := by decide
  rw [List.getElem?_eq_getElem h] at mark space
  rw [changesOf_getElem? cfg (by omega), show 3 + 2 * k = 2 + (2 * k + 1) by omega, changesOf_getElem? cfg (by omega),
    mark, space]
  exact ⟨⟨_, rfl, colour _⟩, _, rfl, rfl⟩

theorem changesOf_getLast? (cfg : ProtocolConfig) (syms : List Sym) :
    (changesOf cfg syms).getLast? = some { level := 0, duration := durationOf cfg cfg.frameGapUnits } :=
  List.getLast?_concat

/-- Settles O31: the output is that of four symbols for each of the frame's bytes; its entries are read by
`changesOf_symbol` and `changesOf_getLast?`. -/
theorem encodeOutputShape : Obligations.EncodeOutputShape := by
  unfold Obligations.EncodeOutputShape
  intro payload s valid fits
  obtain ⟨t, done, out⟩ := exec_encEncode_of_le valid fits
  have count : ((frameBytes s.enc.cfg payload).flatMap symbolsOfByte).length = 4 * (9 + payload.length) := by
    rw [flatMap_symbolsOfByte_length, frameBytes_length]
  refine ⟨t, done, ?length, by rw [out]; rfl, by rw [out]; rfl, fun k hk => ?symbol, ?gap⟩
  case length => rw [out, changesOf_length, count]; omega
  case symbol => rw [out]; exact changesOf_symbol s.enc.cfg (count ▸ hk)
  case gap => rw [out, changesOf_getLast?]; rfl

/-! ## The durations -/

/-- The product of a count and the unit fits 32 bits. -/
theorem durationOf_toNat (cfg : ProtocolConfig) (count : Units) :
    (durationOf cfg count).toNat = count.toNat * cfg.unitDurationMicros.toNat := by
  have bound : count.toNat * cfg.unitDurationMicros.toNat ≤ 65535 * 65535 :=
    Nat.mul_le_mul (Nat.le_of_lt_succ count.isLt) (Nat.le_of_lt_succ cfg.unitDurationMicros.isLt)
  rw [durationOf, BitVec.toNat_ofNat]
  omega

/-- The five unit counts of a record. -/
def unitCounts (cfg : ProtocolConfig) : List Units :=
  [cfg.preambleMarkUnits, cfg.preambleSpaceUnits, cfg.symbolMarkUnits, cfg.separatorUnits, cfg.frameGapUnits]

/-- Each of the changes has the duration of one of the five counts. -/
theorem exists_count_of_mem_changesOf {cfg : ProtocolConfig} {syms : List Sym} {c : SignalChange}
    (mem : c ∈ changesOf cfg syms) : ∃ count ∈ unitCounts cfg, c.duration = durationOf cfg count := by
  simp only [changesOf, List.mem_append, List.mem_flatMap, preambleChanges, symbolChanges, gapChanges, List.mem_cons,
    List.not_mem_nil, or_false] at mem
  rcases mem with ((rfl | rfl) | ⟨sym, -, (rfl | rfl)⟩) | rfl
  · exact ⟨cfg.preambleMarkUnits, by simp [unitCounts], rfl⟩
  · exact ⟨cfg.preambleSpaceUnits, by simp [unitCounts], rfl⟩
  · exact ⟨cfg.symbolMarkUnits, by simp [unitCounts], rfl⟩
  · exact ⟨cfg.separatorUnits, by simp [unitCounts], rfl⟩
  · exact ⟨cfg.frameGapUnits, by simp [unitCounts], rfl⟩

/-- A valid record has a unit and counts of at least 1. -/
theorem unit_and_counts_pos {cfg : ProtocolConfig} (valid : validConfig cfg = true) :
    1 ≤ cfg.unitDurationMicros.toNat ∧ ∀ count ∈ unitCounts cfg, 1 ≤ count.toNat := by
  obtain ⟨unit, ⟨mark, space, symbol⟩, ⟨separator, gap⟩, -⟩ := (validConfigPredicate cfg).1 valid
  simp only [unitCounts, List.forall_mem_cons]
  exact ⟨unit, mark, space, symbol, separator, gap, List.forall_mem_nil _⟩

/-- A valid record's cap is at most 512. -/
theorem maxPayload_le_of_valid {cfg : ProtocolConfig} (valid : validConfig cfg = true) :
    cfg.maxPayloadBytes.toNat ≤ 512 := by
  obtain ⟨-, -, -, ⟨-, cap⟩, -⟩ := (validConfigPredicate cfg).1 valid
  exact cap

/-- Settles O32: every change has the duration of one of the five counts, the product does not overflow (`durationOf_toNat`), and
the factors of a valid record are positive. -/
theorem emittedDurationsExact : Obligations.EmittedDurationsExact := by
  unfold Obligations.EmittedDurationsExact
  intro payload s valid validCfg fits
  have cap : payload.length ≤ encodeCap s.enc.cfg := Nat.le_min.2 ⟨fits, fits.trans (maxPayload_le_of_valid validCfg)⟩
  obtain ⟨t, done, out⟩ := exec_encEncode_of_le valid cap
  refine ⟨t, done, fun c mem => ?_⟩
  rw [out] at mem
  obtain ⟨count, among, duration⟩ := exists_count_of_mem_changesOf mem
  obtain ⟨unitPos, countsPos⟩ := unit_and_counts_pos validCfg
  rw [duration, durationOf_toNat]
  exact ⟨count, among, rfl, Nat.mul_pos (countsPos count among) unitPos,
    Nat.mul_le_mul (Nat.le_of_lt_succ count.isLt) (Nat.le_of_lt_succ s.enc.cfg.unitDurationMicros.isLt)⟩

end Sys2Proof.Proofs
end

section
/-! `DEC.FEED` in ReadSpace, the cases that `FeedParsesLength` and `FeedDeliversGoodFrame` leave, and a change that is not looked
at (spec/44_decoder.md R150, R151, R159, R161, R163, R164). -/

open Sys2Proof Sys2Proof.Machine

namespace Sys2Proof.Proofs

/-! ## A reserved level, a disabled decoder -/

/-- Settles O35: the operands are `arg[34:32]` and `arg[31:0]`; a reserved code stands for no level, and a disabled decoder
answers itself. -/
theorem feedReservedOrDisabledDoesNothing : Obligations.FeedReservedOrDisabledDoesNothing := by
  unfold Obligations.FeedReservedOrDisabledDoesNothing
  refine ⟨fun arg => ?encoding, fun level t s => ⟨fun reserved => ?reserved, fun notReserved invalid => ?disabled⟩⟩
  case encoding =>
    rw [← extractLsb'_eq_ofNat, ← extractLsb'_zero_eq_ofNat]
    exact decode_code_append (op := .decFeed) rfl
  case reserved => exact exec_decFeed_of_no_level (levelOfCode_reserved reserved) t s
  case disabled =>
    obtain ⟨l, -, rfl⟩ := exists_level_of_le notReserved
    exact exec_decFeed_of_silent (Decoder.feed_of_invalid invalid l t)

/-! ## A change that is no accepted space -/

theorem acceptedSpace_iff {cfg : ProtocolConfig} {l : LightLevel} {t : Duration} :
    AcceptedSpace cfg (levelCode l) t ↔ l = .off ∧ spaceAccepted cfg (unitsOf cfg t) = true := by
  rw [spaceAccepted_iff, ← levelCode_eq_zero]

theorem Decoder.feed_of_rejectedSpace {d : Decoder} {l : LightLevel} {t : Duration} (valid : d.valid = true)
    (timed : timingInvalid d.cfg t = false) (reading : d.state = .readSpace)
    (rejected : ¬ AcceptedSpace d.cfg (levelCode l) t) :
    d.feed l t = (clearedDecoder d (stateAfterReject d.cfg (levelCode l) t)
      (abortStats d.frameActive (d.stats.bump .durationRejections)), none) := by
  rw [Decoder.feed_of_readSpace valid timed reading,
    Decoder.stepReadSpace_of_rejected (mt acceptedSpace_iff.2 rejected), Decoder.reject_rearm_eq_cleared]

/-- Settles O40, by `Decoder.feed_of_rejectedSpace`. -/
theorem feedInReadSpaceRejects : Obligations.FeedInReadSpaceRejects := by
  unfold Obligations.FeedInReadSpaceRejects
  intro level t s notReserved valid timed reading rejected
  obtain ⟨l, -, rfl⟩ := exists_level_of_le notReserved
  exact exec_decFeed_of_silent (Decoder.feed_of_rejectedSpace valid timed reading rejected)

/-! ## An accepted space that does not complete a byte -/

/-- The decoder with its pending symbol in the accumulator, waiting for the next mark (R161). -/
def collectSymbol (d : Decoder) : Decoder :=
  { d with
    state := .readMark
    currentByte := BitVec.ofNat 8 (d.currentByte.toNat * 4 + d.pendingSymbol.toNat)
    bitsFilled := d.bitsFilled + 2 }

theorem Decoder.feed_of_notLast {d : Decoder} {t : Duration} (valid : d.valid = true)
    (timed : timingInvalid d.cfg t = false) (reading : d.state = .readSpace) (accepted : AcceptedSpace d.cfg 0 t)
    (notLast : d.bitsFilled ≠ 6) : d.feed .off t = (collectSymbol d, none) := by
  have notFull : d.bitsFilled + 2 ≠ 8 := by
    intro full
    exact notLast (by bv_omega)
  have collected : d.handleSymbol d.pendingSymbol = (d.shiftIn d.pendingSymbol, none) := by
    rcases d.handleSymbol_cases d.pendingSymbol with ⟨-, collected⟩ | ⟨full, -⟩ | ⟨full, -⟩
    · exact collected
    · exact absurd full notFull
    · exact absurd full notFull
  have stillReading : (d.shiftIn d.pendingSymbol).state = .readSpace := reading
  rw [Decoder.feed_of_readSpace valid timed reading,
    Decoder.stepReadSpace_of_accepted ((spaceAccepted_iff _ _).2 accepted.2), collected,
    Decoder.backToReadMark_of_readSpace stillReading, Decoder.shiftIn, shiftedByte_eq_completedByte]
  rfl

/-- Settles O41, by `Decoder.feed_of_notLast`. -/
theorem feedCollectsSymbol : Obligations.FeedCollectsSymbol := by
  unfold Obligations.FeedCollectsSymbol
  intro t s valid timed reading accepted notLast
  exact exec_decFeed_of_silent (l := .off) (Decoder.feed_of_notLast valid timed reading accepted notLast)

/-! ## A stored byte -/

/-- A byte that is not the fifth and stays below a known expected length is stored, and nothing follows (R161, R163). -/
theorem Decoder.afterByte_of_goesOn {d : Decoder} (notFifth : d.fb.length ≠ 5)
    (shorter : d.lengthKnown = true → d.fb.length < d.expectedLen.toNat) : d.afterByte = (d, none) := by
  rcases d.afterByte_cases with ⟨fifth, -⟩ | ⟨fifth, -⟩ | ⟨-, known, sized⟩ | ⟨-, -, stored⟩
  · exact absurd fifth notFifth
  · exact absurd fifth notFifth
  · rcases d.checkSize_cases with ⟨longer, -⟩ | ⟨complete, -⟩ | ⟨-, goesOn⟩
    · have := shorter known; omega
    · have := shorter known; omega
    · rw [sized, goesOn]
  · exact stored

/-- A byte that makes the frame longer than its expected length aborts it (R163). -/
theorem Decoder.afterByte_of_overrun {d : Decoder} (notFifth : d.fb.length ≠ 5) (known : d.lengthKnown = true)
    (longer : d.expectedLen.toNat < d.fb.length) : d.afterByte = (d.abort, none) := by
  rcases d.afterByte_cases with ⟨fifth, -⟩ | ⟨fifth, -⟩ | ⟨-, -, sized⟩ | ⟨-, unknown, -⟩
  · exact absurd fifth notFifth
  · exact absurd fifth notFifth
  · rcases d.checkSize_cases with ⟨-, aborted⟩ | ⟨complete, -⟩ | ⟨shorter, -⟩
    · rw [sized, aborted]
    · omega
    · omega
  · rw [known] at unknown
    cases unknown

theorem storeByte_fb_length (d : Decoder) : (storeByte d).fb.length = d.fb.length + 1 := by
  rw [storeByte_fb, List.length_append]
  rfl

theorem storeByte_notFifth {d : Decoder} (notFourth : d.fb.length ≠ 4) : (storeByte d).fb.length ≠ 5 := by
  rw [storeByte_fb_length]
  omega

/-- Settles O42: nothing follows the stored byte (`Decoder.afterByte_of_goesOn`). -/
theorem feedStoresByte : Obligations.FeedStoresByte := by
  unfold Obligations.FeedStoresByte
  intro t s valid timed reading accepted last room notFourth goesOn
  have after : (storeByte s.dec).afterByte = (storeByte s.dec, none) :=
    Decoder.afterByte_of_goesOn (storeByte_notFifth notFourth)
      (fun known => by rw [storeByte_fb_length]; exact goesOn known)
  have stillReading : (storeByte s.dec).state = .readSpace := reading
  refine exec_decFeed_of_silent (l := .off) ?_
  rw [Decoder.feed_of_afterByte valid timed reading accepted last room after,
    Decoder.backToReadMark_of_readSpace stillReading]
  rfl

/-- An accepted space whose completed byte ends the frame without a success. -/
theorem Decoder.feed_of_failedByte {d : Decoder} {t : Duration} {stats : Stats} (valid : d.valid = true)
    (timed : timingInvalid d.cfg t = false) (reading : d.state = .readSpace) (accepted : AcceptedSpace d.cfg 0 t)
    (last : d.bitsFilled = 6) (room : d.fb.length < 521)
    (after : (storeByte d).afterByte = (clearedDecoder d .idle stats, none)) :
    d.feed .off t = (clearedDecoder d .idle stats, none) := by
  rw [Decoder.feed_of_afterByte valid timed reading accepted last room after, Decoder.backToReadMark_of_idle rfl]

/-- A frame that fails a check is rejected by the first that fails. -/
theorem Decoder.finalize_of_failure {d : Decoder} {k : Counter} (failing : firstFailure d.cfg d.fb = some k) :
    d.finalize = (clearedDecoder d .idle (abortStats d.frameActive (d.stats.bump k)), none) := by
  rw [Decoder.finalize_eq_firstFailure, failing, ← Decoder.reject_eq_cleared]

/-- Settles O44: the stored byte completes the frame, which is finalized; the first failing check rejects it
(`Decoder.finalize_of_failure`). -/
theorem feedRejectsBadFrame : Obligations.FeedRejectsBadFrame := by
  unfold Obligations.FeedRejectsBadFrame
  intro t s k valid timed reading accepted last room notFourth known complete failing
  have after : (storeByte s.dec).afterByte
      = (clearedDecoder s.dec .idle (abortStats s.dec.frameActive (s.dec.stats.bump k)), none) := by
    rw [Decoder.afterByte_of_complete (d := storeByte s.dec) (storeByte_notFifth notFourth) known
      ((storeByte_fb_length _).trans complete), Decoder.finalize_of_failure (d := storeByte s.dec) failing]
    rfl
  exact exec_decFeed_of_silent (l := .off) (Decoder.feed_of_failedByte valid timed reading accepted last room after)

/-- A completed byte that finds the buffer full aborts the frame (R161). -/
theorem Decoder.feed_of_full {d : Decoder} {t : Duration} (valid : d.valid = true)
    (timed : timingInvalid d.cfg t = false) (reading : d.state = .readSpace) (accepted : AcceptedSpace d.cfg 0 t)
    (last : d.bitsFilled = 6) (full : 521 ≤ d.fb.length) :
    d.feed .off t = (clearedDecoder d .idle (abortStats d.frameActive d.stats), none) := by
  have overflow : d.handleSymbol d.pendingSymbol = ((d.shiftIn d.pendingSymbol).abort, none) := by
    rcases d.handleSymbol_cases d.pendingSymbol with ⟨notLast, -⟩ | ⟨-, -, overflow⟩ | ⟨-, room, -⟩
    · exact absurd (by rw [last]; rfl) notLast
    · exact overflow
    · omega
  rw [Decoder.feed_of_readSpace valid timed reading,
    Decoder.stepReadSpace_of_accepted ((spaceAccepted_iff _ _).2 accepted.2), overflow,
    Decoder.backToReadMark_of_idle (Decoder.abort_state _), Decoder.abort_eq_cleared]
  rfl

/-- Settles O46: the full buffer is `Decoder.feed_of_full`; otherwise the byte is stored and the size check aborts
(`Decoder.afterByte_of_overrun`). -/
theorem feedOverrunAborts : Obligations.FeedOverrunAborts := by
  unfold Obligations.FeedOverrunAborts
  intro t s valid timed reading accepted last overrun
  refine exec_decFeed_of_silent (l := .off) ?_
  rcases overrun with full | ⟨room, notFourth, known, longer⟩
  · exact Decoder.feed_of_full valid timed reading accepted last (Nat.le_of_eq full.symm)
  · have after : (storeByte s.dec).afterByte
        = (clearedDecoder s.dec .idle (abortStats s.dec.frameActive s.dec.stats), none) := by
      rw [Decoder.afterByte_of_overrun (d := storeByte s.dec) (storeByte_notFifth notFourth) known
        (by rw [storeByte_fb_length]; exact longer), Decoder.abort_eq_cleared]
      rfl
    exact Decoder.feed_of_failedByte valid timed reading accepted last room after

end Sys2Proof.Proofs
end

section
/-! What a preamble does in every state of the decoder (spec/44_decoder.md R171; spec/70_reset_and_hazards.md R222). -/

open Sys2Proof Sys2Proof.Machine

namespace Sys2Proof.Proofs

/-- A preamble mark that cannot be taken for a symbol mark leads to WaitSpace from every state, in the same configuration. -/
theorem exec_preambleMark {level : LevelCode} {t : Duration} {s : State} (valid : s.dec.valid = true)
    (colour : 1 ≤ level.toNat) (notReserved : level.toNat ≤ 4) (mark : PreambleMark s.dec.cfg level t)
    (noSymbol : timingInvalid s.dec.cfg t = true
      ∨ unitsMatch s.dec.cfg (unitsOf s.dec.cfg t) s.dec.cfg.symbolMarkUnits.toNat = false) :
    ∃ u, exec (.decFeed level t) s = .next u ∧ u.dec.state = .waitSpace ∧ u.dec.valid = true ∧ u.dec.cfg = s.dec.cfg := by
  have rearmed : stateAfterReject s.dec.cfg level t = .waitSpace := if_pos mark
  have notOff : level ≠ 0 := fun off => absurd colour (by rw [off]; decide)
  by_cases invalid : timingInvalid s.dec.cfg t = true
  · exact ⟨_, feedTimingInvalid level t s notReserved valid invalid, rearmed, valid, rfl⟩
  have timed : timingInvalid s.dec.cfg t = false := Bool.eq_false_iff.2 invalid
  cases state : s.dec.state with
  | idle =>
    refine ⟨_, feedInIdle level t s notReserved valid timed state, ?_, valid, rfl⟩
    exact if_pos mark
  | waitSpace =>
    have stays := feedInWaitSpace level t s notReserved valid timed state
    rw [if_neg fun space => notOff space.1, if_pos mark] at stays
    exact ⟨_, stays, state, valid, rfl⟩
  | readMark =>
    have unmatched := noSymbol.resolve_left invalid
    have rejected := feedInReadMark level t s notReserved valid timed state
    rw [if_neg fun accepted => absurd accepted.2 (ne_true_of_eq_false unmatched)] at rejected
    exact ⟨_, rejected, rearmed, valid, rfl⟩
  | readSpace =>
    exact ⟨_, feedInReadSpaceRejects level t s notReserved valid timed state (fun space => notOff space.1), rearmed, valid,
      rfl⟩

/-- Settles O59: the mark leads to WaitSpace (`exec_preambleMark`), where the preamble space starts a frame (O38). -/
theorem preambleResynchronises : Obligations.PreambleResynchronises := by
  unfold Obligations.PreambleResynchronises
  intro level t t' s valid colour notReserved mark noSymbol timed' space
  obtain ⟨u, marked, waiting, valid', cfg⟩ := exec_preambleMark valid colour notReserved mark noSymbol
  rw [← cfg] at timed' space
  have started := feedInWaitSpace 0 t' u (by decide) valid' timed' waiting
  rw [if_pos ⟨rfl, space⟩] at started
  exact ⟨u, _, marked, waiting, started, rfl, rfl, rfl, rfl, rfl⟩

end Sys2Proof.Proofs
end

section
/-! A frame with one wrong payload byte (spec/60_exceptions.md R186), and the frame of what is delivered (R182, R196). -/

open Sys2Proof Sys2Proof.Machine

namespace Sys2Proof.Proofs

/-! ## One wrong byte -/

theorem byteAt_set_of_ne {frame : List Byte} {n i : Nat} (ne : n ≠ i) (b : Byte) :
    byteAt (frame.set n b) i = byteAt frame i := by
  rw [byteAt, byteAt, List.getD_eq_getElem?_getD, List.getD_eq_getElem?_getD, List.getElem?_set_ne ne]

theorem fieldAt_set_of_ne {frame : List Byte} {n i : Nat} (high : n ≠ i) (low : n ≠ i + 1) (b : Byte) :
    fieldAt (frame.set n b) i = fieldAt frame i := by
  rw [fieldAt, fieldAt, byteAt_set_of_ne high, byteAt_set_of_ne low]

/-- The payload field of a frame one of whose payload bytes is replaced. -/
theorem payload_of_wireFrame_set (cfg : ProtocolConfig) (before after : List Byte) (b b' : Byte) :
    (((wireFrame cfg (before ++ b :: after)).set (7 + before.length) b').drop 7).take (before ++ b :: after).length
      = before ++ b' :: after := by
  rw [List.drop_set, if_neg (by omega), List.take_set, payload_of_wireFrame, Nat.add_sub_cancel_left]
  simp

/-- Every check but the last looks at bytes outside the payload; the CRC tells the payloads apart. -/
theorem firstFailure_wireFrame_set {cfg : ProtocolConfig} {before after : List Byte} {b b' : Byte}
    (le : (before ++ b :: after).length ≤ cfg.maxPayloadBytes.toNat) (differ : b ≠ b') :
    firstFailure cfg ((wireFrame cfg (before ++ b :: after)).set (7 + before.length) b') = some .crcFailures := by
  have fits : (before ++ b :: after).length < 65536 := Nat.lt_of_le_of_lt le cfg.maxPayloadBytes.isLt
  have inside : before.length < (before ++ b :: after).length := by simp
  have crc : (crc16 (before ++ b' :: after)).toNat ≠ (crc16 (before ++ b :: after)).toNat := fun same =>
    crcDetectsOneWrongByte before after b b' differ (BitVec.eq_of_toNat_eq same.symm)
  generalize frame : (wireFrame cfg (before ++ b :: after)).set (7 + before.length) b' = received
  have magic : fieldAt received 0 = cfg.magic.toNat := by
    rw [← frame, fieldAt_set_of_ne (by omega) (by omega), fieldAt_wireFrame_magic]
  have version : byteAt received 2 = cfg.version.toNat := by
    rw [← frame, byteAt_set_of_ne (by omega), byteAt_wireFrame_version]
  have length : fieldAt received 3 = (before ++ b :: after).length := by
    rw [← frame, fieldAt_set_of_ne (by omega) (by omega), fieldAt_wireFrame_length cfg fits]
  have crcField : fieldAt received 5 = (crc16 (before ++ b :: after)).toNat := by
    rw [← frame, fieldAt_set_of_ne (by omega) (by omega), fieldAt_wireFrame_crc]
  have ender : fieldAt received (7 + (before ++ b :: after).length) = cfg.ender.toNat := by
    rw [← frame, fieldAt_set_of_ne (by omega) (by omega), fieldAt_wireFrame_ender]
  have size : received.length = 9 + (before ++ b :: after).length := by
    rw [← frame, List.length_set, wireFrame_length]
  have payload : (received.drop 7).take (before ++ b :: after).length = before ++ b' :: after := by
    rw [← frame, payload_of_wireFrame_set]
  have cap : decide ((before ++ b :: after).length ≤ cfg.maxPayloadBytes.toNat) = true := decide_eq_true le
  simp only [firstFailure, frameChecks, magic, version, length, crcField, ender, size, payload, cap]
  simp [crc]

/-- Settles O60: the CRC check is the first that fails (`firstFailure_wireFrame_set`), so O44 applies; the frame was active. -/
theorem wrongPayloadByteCountsCrcFailure : Obligations.WrongPayloadByteCountsCrcFailure := by
  unfold Obligations.WrongPayloadByteCountsCrcFailure
  intro t s before after b b' valid timed reading accepted last room known active complete le differ received
  have failing : firstFailure s.dec.cfg (s.dec.fb ++ [completedByte s.dec]) = some .crcFailures := by
    rw [received, firstFailure_wireFrame_set le differ]
  have notFourth : s.dec.fb.length ≠ 4 := by
    have lengths := congrArg List.length received
    rw [List.length_append, List.length_set, wireFrame_length, List.length_singleton] at lengths
    omega
  have rejected := feedRejectsBadFrame t s .crcFailures valid timed reading accepted last room notFourth known complete
    failing
  rwa [active] at rejected

/-! ## The frame of a delivery -/

theorem drop_eq_take_append_drop {α : Type} (l : List α) (i n : Nat) : l.drop i = (l.drop i).take n ++ l.drop (i + n) := by
  rw [← List.drop_drop, List.take_append_drop]

theorem singleton_bufRead {l : List Byte} {i : Nat} (h : i < l.length) : [bufRead l i] = (l.drop i).take 1 := by
  rw [bufRead_of_lt h, List.drop_eq_getElem_cons h]
  rfl

/-- The two bytes of a field are those it was read from. -/
theorem bytesOf16_memRead16 {l : List Byte} {i : Nat} (h : i + 1 < l.length) :
    bytesOf16 (memRead16 l i) = (l.drop i).take 2 := by
  rw [bytesOf16, memRead16, BitVec.extractLsb'_append_eq_left, BitVec.extractLsb'_append_eq_right,
    bufRead_of_lt (Nat.lt_of_succ_lt h), bufRead_of_lt h, List.drop_eq_getElem_cons (Nat.lt_of_succ_lt h),
    List.drop_eq_getElem_cons h]
  rfl

/-- A row of bytes whose fields are those of a frame is the frame of its payload field (R71). -/
theorem eq_frameBytes_of_fields {cfg : ProtocolConfig} {l : List Byte} {len : Nat} (size : l.length = 9 + len)
    (magic : memRead16 l 0 = cfg.magic) (version : bufRead l 2 = cfg.version) (length : (memRead16 l 3).toNat = len)
    (crc : crc16 ((l.drop 7).take len) = memRead16 l 5) (ender : memRead16 l (7 + len) = cfg.ender) :
    l = frameBytes cfg ((l.drop 7).take len) := by
  have payloadLength : ((l.drop 7).take len).length = len := by
    rw [List.length_take, List.length_drop]
    omega
  have lengthField : BitVec.ofNat 16 len = memRead16 l 3 := by rw [← length, BitVec.ofNat_toNat, BitVec.setWidth_eq]
  have nothingBehind : l.drop (7 + len + 2) = [] := List.drop_eq_nil_of_le (by omega)
  rw [frameBytes, payloadLength, lengthField, crc, ← magic, ← version, ← ender, bytesOf16_memRead16 (by omega),
    bytesOf16_memRead16 (by omega), bytesOf16_memRead16 (by omega), bytesOf16_memRead16 (by omega),
    singleton_bufRead (by omega)]
  conv_lhs => rw [← List.drop_zero (l := l), drop_eq_take_append_drop l 0 2, drop_eq_take_append_drop l (0 + 2) 1,
    drop_eq_take_append_drop l (0 + 2 + 1) 2, drop_eq_take_append_drop l (0 + 2 + 1 + 2) 2,
    drop_eq_take_append_drop l (0 + 2 + 1 + 2 + 2) len, drop_eq_take_append_drop l (0 + 2 + 1 + 2 + 2 + len) 2]
  simp only [List.append_assoc, Nat.reduceAdd, nothingBehind, List.append_nil]

/-- Finalization that puts out an event has found the frame of a payload within the cap. -/
theorem Decoder.finalize_of_event {d : Decoder} {e : Delivery} (event : d.finalize.2 = some e) :
    ∃ payload, d.fb = wireFrame d.cfg payload ∧ payload.length ≤ d.cfg.maxPayloadBytes.toNat
      ∧ d.finalize = d.success payload.length := by
  rcases d.finalize_cases with ⟨k, -, rejected⟩ | ⟨-, magic, version, cap, size, ender, crc, success⟩
  · rw [rejected] at event
    cases event
  have payloadLength : ((d.fb.drop 7).take (memRead16 d.fb 3).toNat).length = (memRead16 d.fb 3).toNat := by
    rw [List.length_take, List.length_drop]
    omega
  refine ⟨(d.fb.drop 7).take (memRead16 d.fb 3).toNat, ?frame, by rwa [payloadLength], by rw [success, payloadLength]⟩
  case frame =>
    rw [← frameBytes_eq_wireFrame _ (by rw [payloadLength]; exact (memRead16 d.fb 3).isLt)]
    exact eq_frameBytes_of_fields size magic version rfl crc ender

theorem Decoder.checkSize_of_event {d : Decoder} {e : Delivery} (event : d.checkSize.2 = some e) :
    d.checkSize = d.finalize := by
  rcases d.checkSize_cases with ⟨-, aborted⟩ | ⟨-, finalized⟩ | ⟨-, goesOn⟩
  · rw [aborted] at event; cases event
  · exact finalized
  · rw [goesOn] at event; cases event

/-- A stored byte with an event finalizes the frame; the fifth byte never does, as a frame has nine at least. -/
theorem Decoder.afterByte_of_event {d : Decoder} {e : Delivery} (event : d.afterByte.2 = some e) :
    d.afterByte = d.finalize := by
  rcases d.afterByte_cases with ⟨-, -, rejected⟩ | ⟨fifth, -, parsed⟩ | ⟨-, -, sized⟩ | ⟨-, -, stored⟩
  · rw [rejected] at event; cases event
  · rw [parsed] at event
    rw [Decoder.checkSize_of_event event] at event
    obtain ⟨payload, frame, -⟩ := Decoder.finalize_of_event event
    have size := congrArg List.length frame
    rw [Decoder.acceptLength_fb, fifth, wireFrame_length] at size
    omega
  · rw [sized] at event ⊢
    exact Decoder.checkSize_of_event event
  · rw [stored] at event; cases event

/-- A change with an event is the accepted space that completes the frame of a payload within the cap. -/
theorem Decoder.feed_of_event {d : Decoder} {l : LightLevel} {t : Duration} {e : Delivery}
    (event : (d.feed l t).2 = some e) :
    l = .off ∧ d.state = .readSpace ∧ ∃ payload, d.fb ++ [completedByte d] = wireFrame d.cfg payload
      ∧ payload.length ≤ d.cfg.maxPayloadBytes.toNat
      ∧ d.feed l t = (clearedDecoder d .idle (d.stats.bump .framesDecoded), (storeByte d).deliveryOf payload.length) := by
  by_cases valid : d.valid = true
  swap
  · rw [Decoder.feed_of_invalid (Bool.eq_false_iff.2 valid)] at event; cases event
  by_cases invalid : timingInvalid d.cfg t = true
  · rw [Decoder.feed_of_timingInvalid valid invalid] at event; cases event
  have timed : timingInvalid d.cfg t = false := Bool.eq_false_iff.2 invalid
  cases reading : d.state with
  | idle => rw [Decoder.feed_of_idle valid timed reading] at event; cases event
  | waitSpace => rw [Decoder.feed_of_waitSpace valid timed reading] at event; cases event
  | readMark => rw [Decoder.feed_of_readMark valid timed reading] at event; cases event
  | readSpace =>
    by_cases accepted : AcceptedSpace d.cfg (levelCode l) t
    swap
    · rw [Decoder.feed_of_rejectedSpace valid timed reading accepted] at event; cases event
    obtain rfl : l = .off := levelCode_eq_zero.1 accepted.1
    by_cases last : d.bitsFilled = 6
    swap
    · rw [Decoder.feed_of_notLast valid timed reading accepted last] at event; cases event
    by_cases room : d.fb.length < 521
    swap
    · rw [Decoder.feed_of_full valid timed reading accepted last (Nat.le_of_not_lt room)] at event; cases event
    have after : (storeByte d).afterByte = ((storeByte d).afterByte.1, (storeByte d).afterByte.2) := rfl
    rw [Decoder.feed_of_afterByte valid timed reading accepted last room after] at event
    have finalized := Decoder.afterByte_of_event event
    rw [finalized] at event
    obtain ⟨payload, frame, le, success⟩ := Decoder.finalize_of_event event
    refine ⟨rfl, rfl, payload, frame, le, ?_⟩
    rw [Decoder.feed_of_afterByte valid timed reading accepted last room (finalized.trans success),
      Decoder.backToReadMark_of_idle rfl]
    rfl

/-- Settles O57: among an operation's outputs a delivery is its event, which only `DEC.FEED` has; `Decoder.feed_of_event` says
from which frame. -/
theorem deliveredFrameIsAuthentic : Obligations.DeliveredFrameIsAuthentic := by
  unfold Obligations.DeliveredFrameIsAuthentic
  rintro i s t e done ⟨more, outs, mem⟩
  obtain rfl := eq_afterOp_of_exec done
  obtain rfl : outputsOf i s = more := List.append_cancel_left outs
  have event : eventOf i s.dec = some e := by simpa [outputsOf] using mem
  obtain ⟨l, t, rfl, fedEvent⟩ := eventOf_eq_some event
  obtain ⟨rfl, reading, payload, frame, le, fed⟩ := Decoder.feed_of_event fedEvent
  have delivery : (storeByte s.dec).deliveryOf payload.length = some e := by rwa [fed] at fedEvent
  rw [Decoder.deliveryOf_of_wireFrame (d := storeByte s.dec) frame, Option.ite_none_right_eq_some,
    Option.some.injEq] at delivery
  obtain ⟨callback, rfl⟩ := delivery
  refine ⟨⟨t, rfl⟩, reading, callback, rfl, rfl, le, frame, ?counted⟩
  case counted =>
    rw [afterOp, decAfter_decFeed_levelCode, fed]
    rfl

end Sys2Proof.Proofs
end

section
/-! The invariants of spec/10_state.md R39: what one change does to a decoder that has them, and that every step keeps them. -/

open Sys2Proof Sys2Proof.Machine

namespace Sys2Proof.Proofs

/-- Settles O51: the reset values are closed, so each invariant is decided. -/
theorem resetHasInvariant : Obligations.ResetHasInvariant := by
  unfold Obligations.ResetHasInvariant
  decide

/-! ## Counters never decrease -/

/-- No counter of the first is greater than in the second. -/
def StatsLe (t u : Stats) : Prop := ∀ k : Counter, (t.get k).toNat ≤ (u.get k).toNat

theorem StatsLe.refl (t : Stats) : StatsLe t t := fun _ => Nat.le_refl _

theorem StatsLe.trans {t u v : Stats} (h : StatsLe t u) (h' : StatsLe u v) : StatsLe t v :=
  fun k => (h k).trans (h' k)

theorem statsLe_bump (t : Stats) (k : Counter) : StatsLe t (t.bump k) := by
  intro j
  have inRange := (t.get k).isLt
  rw [bumpSaturates t k j]
  split
  case isTrue same => rw [same]; omega
  case isFalse => exact Nat.le_refl _

theorem statsLe_abortStats (active : Bool) (t : Stats) : StatsLe t (abortStats active t) := by
  cases active with
  | false => exact StatsLe.refl t
  | true => exact statsLe_bump t .truncatedFrames

/-! ## Decoders with the invariants -/

theorem accumulatorBounded_of_empty {d : Decoder} (bits : d.bitsFilled = 0) (byte : d.currentByte = 0) :
    d.AccumulatorBounded :=
  ⟨.inl bits, by rw [bits, byte]; decide⟩

/-- A cleared decoder has the invariants in Idle, and in WaitSpace if it is enabled. -/
theorem clearedDecoder_inv {d : Decoder} {state : DecState} (stats : Stats) (flag : d.valid = validConfig d.cfg)
    (allowed : state = .idle ∨ (state = .waitSpace ∧ d.valid = true)) : (clearedDecoder d state stats).Inv := by
  have inactive : ¬ (state = .readMark ∨ state = .readSpace) := by
    rcases allowed with rfl | ⟨rfl, -⟩ <;> decide
  have idleIfDisabled : d.valid = false → state = .idle := fun disabled =>
    allowed.resolve_right fun waiting => absurd waiting.2 (ne_true_of_eq_false disabled)
  refine ⟨?active, accumulatorBounded_of_empty rfl rfl, fun _ => ⟨rfl, rfl, rfl, rfl, rfl⟩, ?length, Nat.zero_le _,
    fun disabled => ⟨idleIfDisabled disabled, rfl⟩, flag⟩
  case active => exact ⟨fun active => (by cases active), fun reading => absurd reading inactive⟩
  case length => intro active; cases active

/-- An enabled decoder without a frame keeps the invariants when it goes to Idle or to WaitSpace. -/
theorem goto_inv {d : Decoder} {state : DecState} (inv : d.Inv) (valid : d.valid = true) (noFrame : d.frameActive = false)
    (allowed : state = .idle ∨ state = .waitSpace) : Decoder.Inv { d with state := state } := by
  obtain ⟨-, accumulator, clean, length, bound, -, flag⟩ := inv
  have inactive : ¬ (state = .readMark ∨ state = .readSpace) := by
    rcases allowed with rfl | rfl <;> decide
  refine ⟨?active, accumulator, clean, length, bound, fun disabled => absurd valid (ne_true_of_eq_false disabled), flag⟩
  case active =>
    exact ⟨fun active => absurd active (ne_true_of_eq_false noFrame), fun reading => absurd reading inactive⟩

/-- The invariants of an enabled decoder inside a frame: those that speak of one. -/
theorem inv_of_frame {d : Decoder} (active : d.frameActive = true) (reading : d.state = .readMark ∨ d.state = .readSpace)
    (valid : d.valid = true) (flag : d.valid = validConfig d.cfg) (accumulator : d.AccumulatorBounded)
    (length : d.LengthConsistent) (bound : d.fb.length ≤ 520) : d.Inv :=
  ⟨⟨fun _ => reading, fun _ => active⟩, accumulator, fun inactive => absurd active (ne_true_of_eq_false inactive), length,
    bound, fun disabled => absurd valid (ne_true_of_eq_false disabled), flag⟩

/-- The frame that a preamble space starts. -/
theorem startedFrame_inv {d : Decoder} (valid : d.valid = true) (flag : d.valid = validConfig d.cfg) :
    Decoder.Inv { clearedDecoder d .readMark d.stats with frameActive := true } := by
  refine inv_of_frame rfl (.inl rfl) valid flag (accumulatorBounded_of_empty rfl rfl) (fun _ => ⟨?_, ?_⟩) (Nat.zero_le _)
  · exact ⟨fun known => (by cases known), fun five => absurd five (Nat.not_succ_le_zero 4)⟩
  · intro known; cases known

/-- Collecting a symbol that does not complete a byte shifts the accumulator by two bits. -/
theorem collectSymbol_inv {d : Decoder} (inv : d.Inv) (active : d.frameActive = true) (valid : d.valid = true)
    (notLast : d.bitsFilled ≠ 6) : (collectSymbol d).Inv := by
  obtain ⟨-, ⟨bits, small⟩, -, length, bound, -, flag⟩ := inv
  have symbol : d.pendingSymbol.toNat < 4 := d.pendingSymbol.isLt
  refine inv_of_frame active (.inl rfl) valid flag ?_ length bound
  have grown : ∀ {b : BitVec 4}, d.bitsFilled = b → 2 ^ (b + 2).toNat = 4 * 2 ^ b.toNat → 2 ^ (b + 2).toNat ≤ 256 →
      (BitVec.ofNat 8 (d.currentByte.toNat * 4 + d.pendingSymbol.toNat)).toNat < 2 ^ (d.bitsFilled + 2).toNat := by
    rintro b rfl shifted inByte
    rw [BitVec.toNat_ofNat, shifted]
    omega
  rcases bits with zero | two | four | six
  · exact ⟨.inr (.inl (by rw [collectSymbol, zero]; rfl)), grown zero rfl (by decide)⟩
  · exact ⟨.inr (.inr (.inl (by rw [collectSymbol, two]; rfl))), grown two rfl (by decide)⟩
  · exact ⟨.inr (.inr (.inr (by rw [collectSymbol, four]; rfl))), grown four rfl (by decide)⟩
  · exact absurd six notLast

/-- Storing a byte that leaves the length field as it is, in a frame that goes on. -/
theorem storeByte_inv {d : Decoder} (inv : d.Inv) (active : d.frameActive = true) (valid : d.valid = true)
    (notFourth : d.fb.length ≠ 4) (goesOn : d.lengthKnown = true → d.fb.length + 1 < d.expectedLen.toNat) :
    ((storeByte d).goto .readMark).Inv := by
  obtain ⟨-, -, -, length, bound, -, flag⟩ := inv
  obtain ⟨known, expected⟩ := length active
  have size : ((storeByte d).goto .readMark).fb.length = d.fb.length + 1 := storeByte_fb_length d
  have knownIff : ((storeByte d).goto .readMark).lengthKnown = true ↔ 5 ≤ ((storeByte d).goto .readMark).fb.length := by
    rw [size]
    exact known.trans (by omega)
  refine inv_of_frame active (.inl rfl) valid flag (accumulatorBounded_of_empty rfl rfl) (fun _ => ⟨knownIff, fun isKnown => ?expected⟩)
    ?bound
  case expected =>
    obtain ⟨value, cap, capacity, -⟩ := expected isKnown
    have field : memRead16 ((storeByte d).goto .readMark).fb 3 = memRead16 d.fb 3 :=
      memRead16_append_left (known.1 isKnown)
    rw [field, size]
    exact ⟨value, cap, capacity, goesOn isKnown⟩
  case bound =>
    rw [size]
    by_cases isKnown : d.lengthKnown = true
    · obtain ⟨-, cap, capacity, -⟩ := expected isKnown
      have := goesOn isKnown
      omega
    · have := mt known.2 isKnown
      omega

/-- The fifth byte, with a length within the cap. -/
theorem acceptLength_inv {d : Decoder} (active : d.frameActive = true) (valid : d.valid = true)
    (flag : d.valid = validConfig d.cfg) (fourth : d.fb.length = 4)
    (le : (memRead16 (storeByte d).fb 3).toNat ≤ d.cfg.maxPayloadBytes.toNat) :
    (((storeByte d).acceptLength (memRead16 (storeByte d).fb 3).toNat).goto .readMark).Inv := by
  have cap := maxPayload_le_of_valid (flag.symm.trans valid)
  have size : (((storeByte d).acceptLength (memRead16 (storeByte d).fb 3).toNat).goto .readMark).fb.length = 5 := by
    rw [Decoder.goto_fb, Decoder.acceptLength_fb, storeByte_fb_length, fourth]
  have expected : (((storeByte d).acceptLength (memRead16 (storeByte d).fb 3).toNat).goto .readMark).expectedLen.toNat
      = 9 + (memRead16 (storeByte d).fb 3).toNat := by
    rw [Decoder.goto_expectedLen, Decoder.acceptLength_expectedLen, BitVec.toNat_ofNat]
    omega
  refine inv_of_frame active (.inl rfl) valid flag (accumulatorBounded_of_empty rfl rfl)
    (fun _ => ⟨⟨fun _ => Nat.le_of_eq size.symm, fun _ => rfl⟩, fun _ => ⟨expected, ?cap, ?capacity, ?goesOn⟩⟩) (by omega)
  case cap => rw [expected]; exact Nat.add_le_add_left le 9
  case capacity => exact Nat.add_le_add_left cap 9
  case goesOn => rw [size, expected]; omega

/-! ## What one change can do -/

/-- What one change does to a decoder with the invariants: it goes on without a count, it is rejected with one counter besides
the truncated frame, or it completes a frame. -/
inductive FeedOutcome (d : Decoder) : Decoder × Option Delivery → Prop
  | goesOn {d' : Decoder} (stats : d'.stats = d.stats) (inv : d'.Inv) : FeedOutcome d (d', none)
  | rejected {state : DecState} {k : Counter} (valid : d.valid = true) (allowed : state = .idle ∨ state = .waitSpace)
      (notDecoded : k ≠ .framesDecoded) (notTruncated : k ≠ .truncatedFrames)
      (duration : d.frameActive = false → k = .durationRejections) :
      FeedOutcome d (clearedDecoder d state (abortStats d.frameActive (d.stats.bump k)), none)
  | completed {e : Option Delivery} (valid : d.valid = true) :
      FeedOutcome d (clearedDecoder d .idle (d.stats.bump .framesDecoded), e)

theorem stateAfterReject_cases (cfg : ProtocolConfig) (level : LevelCode) (t : Duration) :
    stateAfterReject cfg level t = .idle ∨ stateAfterReject cfg level t = .waitSpace := by
  rw [stateAfterReject]
  split
  · exact .inr rfl
  · exact .inl rfl

/-- A rejection for its duration or its mark, with the re-arm. -/
theorem FeedOutcome.of_rejectedChange {d : Decoder} {k : Counter} (level : LevelCode) (t : Duration) (valid : d.valid = true)
    (notDecoded : k ≠ .framesDecoded) (notTruncated : k ≠ .truncatedFrames)
    (duration : d.frameActive = false → k = .durationRejections) :
    FeedOutcome d (clearedDecoder d (stateAfterReject d.cfg level t) (abortStats d.frameActive (d.stats.bump k)), none) :=
  .rejected valid (stateAfterReject_cases _ _ _) notDecoded notTruncated duration

/-- No check counts a decoded frame, and only the fifth check counts a truncated one. -/
theorem firstFailure_ne {cfg : ProtocolConfig} {frame : List Byte} {k : Counter} (failing : firstFailure cfg frame = some k)
    (size : frame.length = 9 + fieldAt frame 3) : k ≠ .framesDecoded ∧ k ≠ .truncatedFrames := by
  obtain ⟨⟨passed, counter⟩, found, rfl⟩ := Option.map_eq_some_iff.1 failing
  have mem := List.mem_of_find?_eq_some found
  have failed := List.find?_some found
  simp only [frameChecks, List.mem_cons, List.not_mem_nil, or_false, Prod.mk.injEq] at mem
  rcases mem with ⟨-, rfl⟩ | ⟨-, rfl⟩ | ⟨-, rfl⟩ | ⟨-, rfl⟩ | ⟨rfl, rfl⟩ | ⟨-, rfl⟩ | ⟨-, rfl⟩
  case inr.inr.inr.inr.inl => rw [decide_eq_true size] at failed; cases failed
  all_goals exact ⟨nofun, nofun⟩

/-- The byte that completes the expected length. -/
theorem feedOutcome_of_complete {d : Decoder} {t : Duration} (inv : d.Inv) (valid : d.valid = true)
    (timed : timingInvalid d.cfg t = false) (reading : d.state = .readSpace) (accepted : AcceptedSpace d.cfg 0 t)
    (last : d.bitsFilled = 6) (known : d.lengthKnown = true) (complete : d.fb.length + 1 = d.expectedLen.toNat) :
    FeedOutcome d (d.feed .off t) := by
  obtain ⟨active, -, -, length, bound, -, -⟩ := inv
  have isActive : d.frameActive = true := active.2 (.inr reading)
  obtain ⟨knownIff, expected⟩ := length isActive
  obtain ⟨value, -⟩ := expected known
  have five : 5 ≤ d.fb.length := knownIff.1 known
  have room : d.fb.length < 521 := by omega
  have after : (storeByte d).afterByte = (storeByte d).finalize :=
    Decoder.afterByte_of_complete (d := storeByte d) (by rw [storeByte_fb_length]; omega) known
      ((storeByte_fb_length d).trans complete)
  cases check : firstFailure d.cfg (storeByte d).fb with
  | some k =>
    have size : (storeByte d).fb.length = 9 + fieldAt (storeByte d).fb 3 := by
      rw [← memRead16_toNat_eq_fieldAt (by rw [storeByte_fb_length]; omega), storeByte_fb_length, complete, value, storeByte_fb,
        memRead16_append_left five]
    obtain ⟨notDecoded, notTruncated⟩ := firstFailure_ne check size
    have failed := after.trans (Decoder.finalize_of_failure (d := storeByte d) check)
    rw [Decoder.feed_of_afterByte valid timed reading accepted last room failed, Decoder.backToReadMark_of_idle rfl]
    exact .rejected valid (.inl rfl) notDecoded notTruncated fun inactive => absurd isActive (ne_true_of_eq_false inactive)
  | none =>
    have passes : firstFailure (storeByte d).cfg (storeByte d).fb = none := check
    have success := after.trans (Decoder.finalize_eq_firstFailure _)
    rw [passes] at success
    rw [Decoder.feed_of_afterByte valid timed reading accepted last room success, Decoder.backToReadMark_of_idle rfl]
    exact .completed valid

/-- The byte that the fourth symbol completes: the fifth is parsed, one within the frame stored, the last finalized. -/
theorem feedOutcome_of_last {d : Decoder} {t : Duration} (inv : d.Inv) (valid : d.valid = true)
    (timed : timingInvalid d.cfg t = false) (reading : d.state = .readSpace) (accepted : AcceptedSpace d.cfg 0 t)
    (last : d.bitsFilled = 6) : FeedOutcome d (d.feed .off t) := by
  have ⟨active, _, _, length, bound, _, flag⟩ := inv
  have isActive : d.frameActive = true := active.2 (.inr reading)
  obtain ⟨knownIff, expected⟩ := length isActive
  have room : d.fb.length < 521 := by omega
  have cap := maxPayload_le_of_valid (flag.symm.trans valid)
  by_cases fourth : d.fb.length = 4
  · have fifth : (storeByte d).fb.length = 5 := by rw [storeByte_fb_length, fourth]
    by_cases le : (memRead16 (storeByte d).fb 3).toNat ≤ d.cfg.maxPayloadBytes.toNat
    · have after := Decoder.afterByte_of_fifth_le fifth le cap
      rw [Decoder.feed_of_afterByte valid timed reading accepted last room after,
        Decoder.backToReadMark_of_readSpace (d := (storeByte d).acceptLength _) reading]
      exact .goesOn rfl (acceptLength_inv isActive valid flag fourth le)
    · have after := Decoder.afterByte_of_fifth_gt fifth (Nat.lt_of_not_le le)
      rw [Decoder.feed_of_afterByte valid timed reading accepted last room after,
        Decoder.backToReadMark_of_idle (Decoder.reject_state _ _), Decoder.reject_eq_cleared]
      exact .rejected valid (.inl rfl) (by decide) (by decide) fun inactive =>
        absurd isActive (ne_true_of_eq_false inactive)
  by_cases complete : d.lengthKnown = true ∧ d.fb.length + 1 = d.expectedLen.toNat
  · exact feedOutcome_of_complete inv valid timed reading accepted last complete.1 complete.2
  have goesOn : d.lengthKnown = true → d.fb.length + 1 < d.expectedLen.toNat := by
    intro known
    obtain ⟨-, -, -, shorter⟩ := expected known
    have notComplete : d.fb.length + 1 ≠ d.expectedLen.toNat := fun size => complete ⟨known, size⟩
    omega
  have after : (storeByte d).afterByte = (storeByte d, none) :=
    Decoder.afterByte_of_goesOn (storeByte_notFifth fourth)
      (fun known => by rw [storeByte_fb_length]; exact goesOn known)
  rw [Decoder.feed_of_afterByte valid timed reading accepted last room after,
    Decoder.backToReadMark_of_readSpace (d := storeByte d) reading]
  exact .goesOn rfl (storeByte_inv inv isActive valid fourth goesOn)

/-- Every change, on every decoder with the invariants, by the state it finds. -/
theorem feedOutcome {d : Decoder} (inv : d.Inv) (l : LightLevel) (t : Duration) : FeedOutcome d (d.feed l t) := by
  have ⟨active, accumulator, _, length, bound, _, flag⟩ := inv
  by_cases valid : d.valid = true
  swap
  · rw [Decoder.feed_of_invalid (Bool.eq_false_iff.2 valid)]
    exact .goesOn rfl inv
  by_cases invalid : timingInvalid d.cfg t = true
  · rw [Decoder.feed_of_timingInvalid valid invalid, Decoder.stepTimingInvalid_eq_cleared]
    exact .of_rejectedChange _ t valid (by decide) (by decide) fun _ => rfl
  have timed : timingInvalid d.cfg t = false := Bool.eq_false_iff.2 invalid
  have noFrame : ¬ (d.state = .readMark ∨ d.state = .readSpace) → d.frameActive = false := fun notReading =>
    Bool.eq_false_iff.2 (mt active.1 notReading)
  cases state : d.state with
  | idle =>
    rw [Decoder.feed_of_idle valid timed state, Decoder.stepIdle_eq_ite state]
    refine .goesOn rfl (goto_inv inv valid (noFrame (by rw [state]; decide)) ?_)
    split
    · exact .inr rfl
    · exact .inl rfl
  | waitSpace =>
    rw [Decoder.feed_of_waitSpace valid timed state, Decoder.stepWaitSpace_eq_ite state]
    split
    · exact .goesOn rfl (startedFrame_inv valid flag)
    split
    · exact .goesOn rfl inv
    · rw [noFrame (by rw [state]; decide)]
      exact .goesOn rfl (clearedDecoder_inv _ flag (.inl rfl))
  | readMark =>
    rw [Decoder.feed_of_readMark valid timed state, Decoder.stepReadMark_eq_ite]
    split
    · exact .goesOn rfl (inv_of_frame (active.2 (.inl state)) (.inr rfl) valid flag accumulator length bound)
    · exact .of_rejectedChange _ t valid (by decide) (by decide) fun inactive =>
        absurd (active.2 (.inl state)) (ne_true_of_eq_false inactive)
  | readSpace =>
    by_cases accepted : AcceptedSpace d.cfg (levelCode l) t
    swap
    · rw [Decoder.feed_of_rejectedSpace valid timed state accepted]
      exact .of_rejectedChange _ t valid (by decide) (by decide) fun _ => rfl
    obtain rfl : l = .off := levelCode_eq_zero.1 accepted.1
    by_cases last : d.bitsFilled = 6
    · exact feedOutcome_of_last inv valid timed state accepted last
    · rw [Decoder.feed_of_notLast valid timed state accepted last]
      exact .goesOn rfl (collectSymbol_inv inv (active.2 (.inr state)) valid last)

/-- Settles O53: a reserved level leaves the counters, and the outcomes of the others are those of `feedOutcome`. -/
theorem feedCounterCombinations : Obligations.FeedCounterCombinations := by
  unfold Obligations.FeedCounterCombinations
  intro level t s inv
  refine ⟨_, exec_eq_afterOp _ s, ?_⟩
  by_cases reserved : 5 ≤ level.toNat
  · exact .inl (by rw [afterOp, decAfter_decFeed, levelOfCode_reserved reserved, Option.elim_none])
  obtain ⟨l, -, rfl⟩ := exists_level_of_le (c := level) (by omega)
  rw [afterOp, decAfter_decFeed_levelCode]
  have outcome := feedOutcome inv.2 l t
  generalize s.dec.feed l t = r at outcome ⊢
  cases outcome with
  | goesOn stats => exact .inl stats
  | completed => exact .inr (.inl rfl)
  | rejected _ _ notDecoded notTruncated duration =>
    cases active : s.dec.frameActive with
    | false => exact .inr (.inr (.inl ⟨rfl, by rw [duration active]; rfl⟩))
    | true => exact .inr (.inr (.inr ⟨rfl, _, notDecoded, notTruncated, rfl⟩))

/-! ## Every operation keeps the invariants -/

theorem FeedOutcome.keeps {d : Decoder} {r : Decoder × Option Delivery} (outcome : FeedOutcome d r)
    (flag : d.valid = validConfig d.cfg) : r.1.Inv ∧ StatsLe d.stats r.1.stats := by
  cases outcome with
  | goesOn stats inv => exact ⟨inv, stats ▸ StatsLe.refl _⟩
  | completed => exact ⟨clearedDecoder_inv _ flag (.inl rfl), statsLe_bump _ _⟩
  | rejected valid allowed =>
    exact ⟨clearedDecoder_inv _ flag (allowed.imp_right fun waiting => ⟨waiting, valid⟩),
      (statsLe_bump _ _).trans (statsLe_abortStats _ _)⟩

theorem decAfter_keeps {d : Decoder} (inv : d.Inv) (i : Instr) :
    (decAfter i d).Inv ∧ StatsLe d.stats (decAfter i d).stats := by
  have ⟨_, _, _, _, _, _, flag⟩ := inv
  cases i with
  | decConfigure cfg =>
    exact ⟨clearedDecoder_inv (d := { d with cfg := cfg, valid := validConfig cfg }) d.stats rfl (.inl rfl), StatsLe.refl _⟩
  | decFeed level t =>
    by_cases reserved : 5 ≤ level.toNat
    · rw [decAfter_decFeed, levelOfCode_reserved reserved]
      exact ⟨inv, StatsLe.refl _⟩
    · obtain ⟨l, -, rfl⟩ := exists_level_of_le (c := level) (by omega)
      rw [decAfter_decFeed_levelCode]
      exact (feedOutcome inv l t).keeps flag
  | decReset => exact ⟨clearedDecoder_inv d.stats flag (.inl rfl), StatsLe.refl _⟩
  | _ => exact ⟨inv, StatsLe.refl _⟩

/-- What `ENC.ENCODE` builds fits its two buffers (R41, R137). -/
theorem encodePayloadBuffers_length_le {e : Encoder} {payload frame : List Byte} {out : List SignalChange}
    (built : encodePayloadBuffers e payload = some (frame, out)) : frame.length ≤ 521 ∧ out.length ≤ 4200 := by
  have cap := encodeCap_le e.cfg
  have checked : ¬ (e.valid = false ∨ encodeCap e.cfg < payload.length) := fun failing => by
    rw [encodePayloadBuffers_eq_none.2 failing] at built
    cases built
  obtain ⟨valid, fits⟩ := not_or.1 checked
  rw [encodePayloadBuffers_eq_wire (eq_true_of_ne_false valid) (Nat.le_of_not_lt fits)] at built
  cases built
  rw [wireChanges_length, wireFrame_length]
  omega

theorem encAfter_inv {e : Encoder} (inv : e.Inv) (i : Instr) : (encAfter i e).Inv := by
  obtain ⟨frame, out, flag⟩ := inv
  cases i with
  | encConfigure cfg => exact ⟨frame, out, rfl⟩
  | encEncode payload =>
    rw [encAfter]
    cases built : encodePayloadBuffers e payload with
    | none => exact ⟨Nat.zero_le _, Nat.zero_le _, flag⟩
    | some b =>
      obtain ⟨frame', out'⟩ := encodePayloadBuffers_length_le built
      exact ⟨frame', out', flag⟩
  | _ => exact ⟨frame, out, flag⟩

/-- Settles O52: a step is idle, or performs one operation, which keeps each subunit's invariants (`encAfter_inv`,
`decAfter_keeps`), or turns a command away without a change of state. -/
theorem stepKeepsInvariant : Obligations.StepKeepsInvariant := by
  unfold Obligations.StepKeepsInvariant
  rintro s t ⟨enc, dec⟩ stepped
  rcases step_eq_next stepped with ⟨-, rfl⟩ | ⟨p, rest, -, ⟨i, -, done⟩ | ⟨op, -, rfl⟩⟩
  · exact ⟨⟨enc, dec⟩, StatsLe.refl _⟩
  · obtain rfl := eq_afterOp_of_exec done
    obtain ⟨dec', stats⟩ := decAfter_keeps dec i
    exact ⟨⟨encAfter_inv enc i, dec'⟩, stats⟩
  · exact ⟨⟨enc, dec⟩, StatsLe.refl _⟩

end Sys2Proof.Proofs
end

section
/-! The round trip of spec/44_decoder.md R172: the changes of `ENC.ENCODE` of a payload, fed to an idle decoder with the same
configuration, deliver that payload. -/

open Sys2Proof Sys2Proof.Machine

namespace Sys2Proof.Proofs

/-! ## A row of changes that delivers nothing -/

/-- The state in which `n` silent changes leave the block, when they leave the decoder `d`. -/
def afterFeeds (s : State) (d : Decoder) (n : Nat) : State :=
  { s with dec := d, outs := s.outs ++ List.replicate n okNone }

/-- Fed in order to the decoder `d`, the changes leave `d'` and put out nothing but their responses. -/
def FeedsTo (cs : List SignalChange) (d d' : Decoder) : Prop :=
  ∀ s : State, s.dec = d → execAll (cs.map feedOf) s = .next (afterFeeds s d' cs.length)

theorem afterFeeds_afterFeeds (s : State) (d d' : Decoder) (m n : Nat) :
    afterFeeds (afterFeeds s d m) d' n = afterFeeds s d' (m + n) := by
  simp only [afterFeeds, List.append_assoc, List.replicate_add]

theorem FeedsTo.nil (d : Decoder) : FeedsTo [] d d := by
  rintro s rfl
  simp only [List.map_nil, execAll, afterFeeds, List.length_nil, List.replicate_zero, List.append_nil]

theorem FeedsTo.append {cs cs' : List SignalChange} {d d' d'' : Decoder} (h : FeedsTo cs d d') (h' : FeedsTo cs' d' d'') :
    FeedsTo (cs ++ cs') d d'' := by
  intro s hs
  rw [List.map_append, execAll_append_of_next (h s hs), h' (afterFeeds s d' cs.length) rfl, afterFeeds_afterFeeds,
    List.length_append]

theorem FeedsTo.single {l : LightLevel} {t : Duration} {d d' : Decoder} (fed : d.feed l t = (d', none)) :
    FeedsTo [{ level := levelCode l, duration := t }] d d' := by
  rintro s rfl
  exact execAll_cons_of_next (exec_decFeed_of_silent fed) []

/-! ## Changes of a whole number of units are recognised -/

theorem unitsOf_durationOf {cfg : ProtocolConfig} (unitPos : 1 ≤ cfg.unitDurationMicros.toNat) (count : Units) :
    unitsOf cfg (durationOf cfg count) = count.toNat := by
  have dividend : 2 * (count.toNat * cfg.unitDurationMicros.toNat) + cfg.unitDurationMicros.toNat
      = cfg.unitDurationMicros.toNat + count.toNat * (2 * cfg.unitDurationMicros.toNat) := by ring
  rw [unitsOf, durationOf_toNat, roundHalfUp, dividend, Nat.add_mul_div_right _ _ (by omega),
    Nat.div_eq_of_lt (by omega), Nat.zero_add]

theorem timingInvalid_durationOf {cfg : ProtocolConfig} (unitPos : 1 ≤ cfg.unitDurationMicros.toNat) {count : Units}
    (pos : 1 ≤ count.toNat) : timingInvalid cfg (durationOf cfg count) = false := by
  rw [← Bool.not_eq_true, timingInvalid_iff, unitsOf_durationOf unitPos, durationOf_toNat, sub_self]
  omega

theorem unitsMatch_self (cfg : ProtocolConfig) (n : Nat) : unitsMatch cfg n n = true := by
  rw [unitsMatch_iff, sub_self]
  exact Nat.zero_le _

/-- What the round trip needs of a configuration: an enabled decoder whose unit and counts are positive. -/
structure Ready (d : Decoder) : Prop where
  valid : d.valid = true
  config : validConfig d.cfg = true

theorem Ready.timed {d : Decoder} (ready : Ready d) {count : Units} (among : count ∈ unitCounts d.cfg) :
    timingInvalid d.cfg (durationOf d.cfg count) = false := by
  obtain ⟨unitPos, countsPos⟩ := unit_and_counts_pos ready.config
  exact timingInvalid_durationOf unitPos (countsPos count among)

theorem Ready.unitsOf {d : Decoder} (ready : Ready d) (count : Units) :
    unitsOf d.cfg (durationOf d.cfg count) = count.toNat := by
  obtain ⟨unitPos, -⟩ := unit_and_counts_pos ready.config
  exact unitsOf_durationOf unitPos count

theorem Ready.separatorTimed {d : Decoder} (ready : Ready d) :
    timingInvalid d.cfg (durationOf d.cfg d.cfg.separatorUnits) = false :=
  ready.timed (by simp [unitCounts])

/-- The separator is an accepted space. -/
theorem Ready.accepted {d : Decoder} (ready : Ready d) : AcceptedSpace d.cfg 0 (durationOf d.cfg d.cfg.separatorUnits) :=
  ⟨rfl, .inr (Nat.le_of_eq (ready.unitsOf _).symm)⟩

/-! ## The preamble and the gap -/

/-- The decoder in a new, empty frame (R160). -/
def startedFrame (d : Decoder) : Decoder :=
  { d with
    state := .readMark
    fb := []
    currentByte := 0
    bitsFilled := 0
    pendingSymbol := 0
    lengthKnown := false
    expectedLen := 0
    frameActive := true }

/-- A valid preamble colour is a level, and not Off. -/
theorem exists_preamble_level {cfg : ProtocolConfig} (valid : validConfig cfg = true) :
    ∃ l, l ≠ .off ∧ cfg.preambleColor = levelCode l := by
  obtain ⟨-, -, -, -, colour, notReserved⟩ := (validConfigPredicate cfg).1 valid
  obtain ⟨l, -, code⟩ := exists_level_of_le notReserved
  refine ⟨l, fun off => ?_, code⟩
  rw [code, off] at colour
  exact absurd colour (by decide)

theorem feedsTo_preamble {d : Decoder} (ready : Ready d) (idle : d.state = .idle) :
    FeedsTo (preambleChanges d.cfg) d (startedFrame d) := by
  obtain ⟨l, -, code⟩ := exists_preamble_level ready.config
  have mark : d.feed l (durationOf d.cfg d.cfg.preambleMarkUnits) = ({ d with state := .waitSpace }, none) := by
    have isMark : PreambleMark d.cfg (levelCode l) (durationOf d.cfg d.cfg.preambleMarkUnits) :=
      ⟨code.symm, by rw [ready.unitsOf]; exact unitsMatch_self _ _⟩
    rw [Decoder.feed_of_idle ready.valid (ready.timed (by simp [unitCounts])) idle, Decoder.stepIdle_eq_ite idle,
      if_pos isMark]
  have space : Decoder.feed { d with state := .waitSpace } .off (durationOf d.cfg d.cfg.preambleSpaceUnits)
      = (startedFrame d, none) := by
    have isSpace : levelCode .off = 0 ∧ unitsMatch d.cfg (unitsOf d.cfg (durationOf d.cfg d.cfg.preambleSpaceUnits))
        d.cfg.preambleSpaceUnits.toNat = true :=
      ⟨rfl, by rw [ready.unitsOf]; exact unitsMatch_self _ _⟩
    rw [Decoder.feed_of_waitSpace (d := { d with state := .waitSpace }) ready.valid (ready.timed (by simp [unitCounts])) rfl,
      Decoder.stepWaitSpace_eq_ite rfl, if_pos isSpace]
    rfl
  rw [preambleChanges, code]
  exact (FeedsTo.single mark).append (FeedsTo.single space)

/-- The trailing gap leaves an idle decoder as it is. -/
theorem feedsTo_gap {d : Decoder} (ready : Ready d) (idle : d.state = .idle) : FeedsTo (gapChanges d.cfg) d d := by
  obtain ⟨l, colour, code⟩ := exists_preamble_level ready.config
  have noMark : ¬ PreambleMark d.cfg (levelCode .off) (durationOf d.cfg d.cfg.frameGapUnits) := fun mark =>
    colour (levelCode_eq_zero.1 (code.symm.trans mark.1.symm))
  refine FeedsTo.single ?_
  rw [Decoder.feed_of_idle ready.valid (ready.timed (by simp [unitCounts])) idle, Decoder.stepIdle_eq_ite idle, if_neg noMark,
    ← idle]

/-! ## The symbols of a byte -/

/-- The decoder inside a byte, with the accumulator and the pending symbol as given. -/
def inByte (d : Decoder) (state : DecState) (byte : Byte) (bits : BitVec 4) (sym : Sym) : Decoder :=
  { d with state := state, currentByte := byte, bitsFilled := bits, pendingSymbol := sym }

theorem Ready.inByte {d : Decoder} (ready : Ready d) (state : DecState) (byte : Byte) (bits : BitVec 4) (sym : Sym) :
    Ready (inByte d state byte bits sym) :=
  ⟨ready.valid, ready.config⟩

theorem symbolOfCode_symbolToColor (sym : Sym) : symbolOfCode (levelCode (symbolToColor sym)) = sym := by
  revert sym
  decide

theorem symbolToColor_ne_off (sym : Sym) : symbolToColor sym ≠ .off := by
  revert sym
  decide

/-- The mark of a symbol. -/
def markOf (cfg : ProtocolConfig) (sym : Sym) : SignalChange :=
  { level := levelCode (symbolToColor sym), duration := durationOf cfg cfg.symbolMarkUnits }

/-- The separator behind a symbol. -/
def separator (cfg : ProtocolConfig) : SignalChange :=
  { level := levelCode .off, duration := durationOf cfg cfg.separatorUnits }

theorem symbolChanges_eq (cfg : ProtocolConfig) (sym : Sym) :
    symbolChanges cfg sym = [markOf cfg sym] ++ [separator cfg] := rfl

/-- A mark of a colour and of a symbol mark's length is stored. -/
theorem Decoder.feed_of_mark {d : Decoder} {l : LightLevel} {t : Duration} (valid : d.valid = true)
    (timed : timingInvalid d.cfg t = false) (reading : d.state = .readMark) (colour : l ≠ .off)
    (matched : unitsMatch d.cfg (unitsOf d.cfg t) d.cfg.symbolMarkUnits.toNat = true) :
    d.feed l t = ({ d with pendingSymbol := symbolOfCode (levelCode l), state := .readSpace }, none) := by
  rw [Decoder.feed_of_readMark valid timed reading, Decoder.stepReadMark_eq_ite,
    if_pos ⟨fun off => colour (levelCode_eq_zero.1 off), matched⟩]

theorem feedsTo_mark {d : Decoder} (ready : Ready d) (byte : Byte) (bits : BitVec 4) (before sym : Sym) :
    FeedsTo [markOf d.cfg sym] (inByte d .readMark byte bits before) (inByte d .readSpace byte bits sym) := by
  have matched : unitsMatch d.cfg (unitsOf d.cfg (durationOf d.cfg d.cfg.symbolMarkUnits)) d.cfg.symbolMarkUnits.toNat
      = true := by rw [ready.unitsOf]; exact unitsMatch_self _ _
  have fed := Decoder.feed_of_mark (d := inByte d .readMark byte bits before) ready.valid
    (ready.timed (count := d.cfg.symbolMarkUnits) (by simp [unitCounts])) rfl (symbolToColor_ne_off sym) matched
  rw [symbolOfCode_symbolToColor] at fed
  exact FeedsTo.single fed

/-- The bits of a byte from bit `k` up are those from bit `k + 2` up, shifted, and the symbol at bit `k`. -/
theorem shift_symbol (b : Byte) (k : Nat) :
    BitVec.ofNat 8 ((BitVec.ofNat 8 (b.toNat / 2 ^ (k + 2))).toNat * 4 + (b.extractLsb' k 2).toNat)
      = BitVec.ofNat 8 (b.toNat / 2 ^ k) := by
  have bound : b.toNat / 2 ^ k < 256 := (Nat.div_le_self _ _).trans_lt b.isLt
  rw [Nat.pow_add, ← Nat.div_div_eq_div_mul, extractLsb'_toNat_eq_div_mod, BitVec.toNat_ofNat]
  generalize b.toNat / 2 ^ k = upper at bound ⊢
  congr 1
  omega

/-- A symbol of a byte that does not complete it shifts the accumulator. -/
theorem feedsTo_symbol {d : Decoder} (ready : Ready d) (b : Byte) (k : Nat) {bits : BitVec 4} (notLast : bits ≠ 6)
    (before : Sym) :
    FeedsTo (symbolChanges d.cfg (b.extractLsb' k 2)) (inByte d .readMark (BitVec.ofNat 8 (b.toNat / 2 ^ (k + 2))) bits before)
      (inByte d .readMark (BitVec.ofNat 8 (b.toNat / 2 ^ k)) (bits + 2) (b.extractLsb' k 2)) := by
  have space := Decoder.feed_of_notLast
    (d := inByte d .readSpace (BitVec.ofNat 8 (b.toNat / 2 ^ (k + 2))) bits (b.extractLsb' k 2)) ready.valid
    ready.separatorTimed rfl ready.accepted notLast
  rw [symbolChanges_eq, ← shift_symbol b k]
  exact (feedsTo_mark ready _ bits before _).append (FeedsTo.single space)

/-- The decoder that has read all of a byte but the space of its last symbol: the upper three symbols are in the accumulator,
the last is pending. -/
def lastMarkRead (d : Decoder) (b : Byte) : Decoder :=
  inByte d .readSpace (BitVec.ofNat 8 (b.toNat / 2 ^ 2)) 6 (b.extractLsb' 0 2)

/-- The changes of a byte but the last, which is the separator of its last symbol. -/
def byteChangesBut (cfg : ProtocolConfig) (b : Byte) : List SignalChange :=
  symbolChanges cfg (b.extractLsb' 6 2) ++ symbolChanges cfg (b.extractLsb' 4 2) ++ symbolChanges cfg (b.extractLsb' 2 2)
    ++ [markOf cfg (b.extractLsb' 0 2)]

theorem byteChanges_eq (cfg : ProtocolConfig) (b : Byte) : byteChanges cfg b = byteChangesBut cfg b ++ [separator cfg] := rfl

theorem feedsTo_byteChangesBut {d : Decoder} (ready : Ready d) (reading : d.state = .readMark) (byte : d.currentByte = 0)
    (bits : d.bitsFilled = 0) (b : Byte) : FeedsTo (byteChangesBut d.cfg b) d (lastMarkRead d b) := by
  have nothing : BitVec.ofNat 8 (b.toNat / 2 ^ (6 + 2)) = d.currentByte := by
    rw [Nat.div_eq_of_lt b.isLt, byte]
    rfl
  have start : inByte d .readMark d.currentByte 0 d.pendingSymbol = d := by rw [inByte, ← reading, ← bits]
  have first := feedsTo_symbol ready b 6 (bits := 0) (by decide) d.pendingSymbol
  have second := feedsTo_symbol ready b 4 (bits := 0 + 2) (by decide) (b.extractLsb' 6 2)
  have third := feedsTo_symbol ready b 2 (bits := 0 + 2 + 2) (by decide) (b.extractLsb' 4 2)
  rw [nothing, start] at first
  exact ((first.append second).append third).append (feedsTo_mark ready _ _ _ _)

/-- The four symbols, most significant first, make up the byte. -/
theorem completedByte_lastMarkRead (d : Decoder) (b : Byte) : completedByte (lastMarkRead d b) = b := by
  rw [completedByte, lastMarkRead]
  exact (shift_symbol b 0).trans (by rw [Nat.pow_zero, Nat.div_one, BitVec.ofNat_toNat, BitVec.setWidth_eq])

/-- The decoder that has the byte in its buffer, still in ReadSpace. -/
theorem storeByte_lastMarkRead (d : Decoder) (b : Byte) :
    storeByte (lastMarkRead d b) = { inByte d .readSpace 0 0 (b.extractLsb' 0 2) with fb := d.fb ++ [b] } := by
  rw [storeByte, completedByte_lastMarkRead]
  rfl

/-! ## The bytes of a frame -/

/-- The decoder inside the frame of a payload of `len` bytes, with the bytes `fb` received and `sym` the last symbol. -/
def receiving (d : Decoder) (len : Nat) (fb : List Byte) (sym : Sym) : Decoder :=
  { d with
    state := .readMark
    fb := fb
    currentByte := 0
    bitsFilled := 0
    pendingSymbol := sym
    lengthKnown := decide (5 ≤ fb.length)
    expectedLen := if 5 ≤ fb.length then BitVec.ofNat 10 (9 + len) else 0
    frameActive := true }

theorem Ready.receiving {d : Decoder} (ready : Ready d) (len : Nat) (fb : List Byte) (sym : Sym) :
    Ready (receiving d len fb sym) :=
  ⟨ready.valid, ready.config⟩

theorem receiving_nil (d : Decoder) (len : Nat) : receiving d len [] 0 = startedFrame d := rfl

theorem receiving_expectedLen (d : Decoder) {len : Nat} {fb : List Byte} (sym : Sym) (le : len ≤ 512)
    (five : 5 ≤ fb.length) : (receiving d len fb sym).expectedLen.toNat = 9 + len := by
  simp only [receiving, if_pos five, BitVec.toNat_ofNat]
  omega

/-- A byte is received: all of its changes but the last separator lead to `lastMarkRead`, and the separator stores it. -/
theorem feedsTo_byte {d d' : Decoder} {b : Byte} (ready : Ready d) (reading : d.state = .readMark) (byte : d.currentByte = 0)
    (bits : d.bitsFilled = 0) (room : d.fb.length < 521)
    (after : (storeByte (lastMarkRead d b)).afterByte = (d', none)) (still : d'.state = .readSpace) :
    FeedsTo (byteChanges d.cfg b) d (d'.goto .readMark) := by
  have ready' : Ready (lastMarkRead d b) := ready.inByte _ _ _ _
  rw [byteChanges_eq]
  refine (feedsTo_byteChangesBut ready reading byte bits b).append (FeedsTo.single ?_)
  rw [← Decoder.backToReadMark_of_readSpace still]
  exact Decoder.feed_of_afterByte ready'.valid ready'.separatorTimed rfl ready'.accepted rfl room after

/-- The length field of a frame, from its first five bytes. -/
theorem memRead16_of_wireFrame {cfg : ProtocolConfig} {payload fb rest : List Byte} (fits : payload.length < 65536)
    (frame : fb ++ rest = wireFrame cfg payload) (five : fb.length = 5) : (memRead16 fb 3).toNat = payload.length := by
  rw [← memRead16_append_left (more := rest) (by omega), frame,
    memRead16_toNat_eq_fieldAt (by rw [wireFrame_length]; omega), fieldAt_wireFrame_length _ fits]

/-- What `storeByte` leaves of a decoder that has received `fb` and read the symbols of one byte more. -/
theorem storeByte_receiving (d : Decoder) (len : Nat) (fb : List Byte) (sym : Sym) (b : Byte) :
    storeByte (lastMarkRead (receiving d len fb sym) b)
      = { receiving d len fb (b.extractLsb' 0 2) with state := .readSpace, fb := fb ++ [b] } := by
  rw [storeByte_lastMarkRead]
  rfl

/-- The fifth byte makes the length known (R162). -/
theorem afterByte_receiving_fifth {d : Decoder} {len : Nat} {fb : List Byte} {b : Byte} (sym : Sym) (ready : Ready d)
    (le : len ≤ d.cfg.maxPayloadBytes.toNat) (fourth : fb.length = 4) (field : (memRead16 (fb ++ [b]) 3).toNat = len) :
    (storeByte (lastMarkRead (receiving d len fb sym) b)).afterByte
      = ({ receiving d len (fb ++ [b]) (b.extractLsb' 0 2) with state := .readSpace }, none) := by
  have fifth : (fb ++ [b]).length = 5 := by rw [List.length_append, fourth]; rfl
  have after := Decoder.afterByte_of_fifth_le
    (d := { receiving d len fb (b.extractLsb' 0 2) with state := .readSpace, fb := fb ++ [b] }) fifth (field.trans_le le)
    (maxPayload_le_of_valid ready.config)
  rw [storeByte_receiving, after, field]
  simp [receiving, fourth, Decoder.acceptLength]

/-- Another byte is stored, and the frame goes on while it is shorter than expected (R161, R163). -/
theorem afterByte_receiving_goesOn {d : Decoder} {len : Nat} {fb : List Byte} {b : Byte} (sym : Sym) (le : len ≤ 512)
    (notFourth : fb.length ≠ 4) (shorter : fb.length + 1 < 9 + len) :
    (storeByte (lastMarkRead (receiving d len fb sym) b)).afterByte
      = ({ receiving d len (fb ++ [b]) (b.extractLsb' 0 2) with state := .readSpace }, none) := by
  have knownIff : 5 ≤ fb.length + 1 ↔ 5 ≤ fb.length := by omega
  have after := Decoder.afterByte_of_goesOn (d := storeByte (lastMarkRead (receiving d len fb sym) b))
    (storeByte_notFifth notFourth) fun known => by
      rw [storeByte_fb_length]
      exact shorter.trans_eq (receiving_expectedLen d sym le (of_decide_eq_true known)).symm
  rw [after, storeByte_receiving]
  simp [receiving, knownIff]

/-- A byte of the frame that is not its last. -/
theorem feedsTo_receiving_byte {d : Decoder} {payload fb rest : List Byte} {b : Byte} (ready : Ready d)
    (le : payload.length ≤ d.cfg.maxPayloadBytes.toNat) (frame : fb ++ [b] ++ rest = wireFrame d.cfg payload)
    (notLast : rest ≠ []) (sym : Sym) :
    FeedsTo (byteChanges d.cfg b) (receiving d payload.length fb sym)
      (receiving d payload.length (fb ++ [b]) (b.extractLsb' 0 2)) := by
  have cap := maxPayload_le_of_valid ready.config
  have behind : 1 ≤ rest.length := List.length_pos_iff.2 notLast
  have size : fb.length + 1 + rest.length = 9 + payload.length := by
    have sizes := congrArg List.length frame
    rwa [List.length_append, List.length_append, List.length_singleton, wireFrame_length] at sizes
  have after : (storeByte (lastMarkRead (receiving d payload.length fb sym) b)).afterByte
      = ({ receiving d payload.length (fb ++ [b]) (b.extractLsb' 0 2) with state := .readSpace }, none) := by
    by_cases fourth : fb.length = 4
    · exact afterByte_receiving_fifth sym ready le fourth
        (memRead16_of_wireFrame (by omega) frame (by rw [List.length_append, fourth]; rfl))
    · exact afterByte_receiving_goesOn sym (le.trans cap) fourth (by omega)
  exact feedsTo_byte (ready.receiving payload.length fb sym) rfl rfl rfl (show fb.length < 521 by omega) after rfl

/-- The bytes of the frame up to one of them, by induction on those still to come. -/
theorem feedsTo_receiving {d : Decoder} {payload rest : List Byte} (ready : Ready d)
    (le : payload.length ≤ d.cfg.maxPayloadBytes.toNat) (notLast : rest ≠ []) (bs : List Byte) :
    ∀ (fb : List Byte) (sym : Sym), fb ++ bs ++ rest = wireFrame d.cfg payload →
      ∃ sym', FeedsTo (bs.flatMap (byteChanges d.cfg)) (receiving d payload.length fb sym)
        (receiving d payload.length (fb ++ bs) sym') := by
  induction bs with
  | nil =>
    intro fb sym _
    rw [List.append_nil]
    exact ⟨sym, FeedsTo.nil _⟩
  | cons b bs ih =>
    intro fb sym frame
    have first := feedsTo_receiving_byte ready le (fb := fb) (b := b) (rest := bs ++ rest) (by simpa using frame)
      (List.append_ne_nil_of_right_ne_nil _ notLast) sym
    obtain ⟨sym', others⟩ := ih (fb ++ [b]) (b.extractLsb' 0 2) (by simpa using frame)
    rw [List.append_assoc, List.singleton_append] at others
    exact ⟨sym', first.append others⟩

/-- The changes of a frame up to the space that completes its last byte. -/
theorem feedsTo_frame {d : Decoder} {payload front : List Byte} {b : Byte} (ready : Ready d) (idle : d.state = .idle)
    (le : payload.length ≤ d.cfg.maxPayloadBytes.toNat) (frame : front ++ [b] = wireFrame d.cfg payload) :
    ∃ sym, FeedsTo (preambleChanges d.cfg ++ front.flatMap (byteChanges d.cfg) ++ byteChangesBut d.cfg b) d
      (lastMarkRead (receiving d payload.length front sym) b) := by
  obtain ⟨sym, bytes⟩ := feedsTo_receiving ready le (List.cons_ne_nil b []) front [] 0 frame
  rw [receiving_nil] at bytes
  have last := feedsTo_byteChangesBut (ready.receiving payload.length front sym) rfl rfl rfl b
  exact ⟨sym, ((feedsTo_preamble ready idle).append bytes).append last⟩

/-- A cleared decoder keeps the configuration and the callback, and nothing else. -/
theorem clearedDecoder_congr {d d' : Decoder} {state : DecState} {stats : Stats} (cfg : d.cfg = d'.cfg)
    (valid : d.valid = d'.valid) (cbEn : d.cbEn = d'.cbEn) (cbCtx : d.cbCtx = d'.cbCtx) :
    clearedDecoder d state stats = clearedDecoder d' state stats := by
  rw [clearedDecoder, clearedDecoder, cfg, valid, cbEn, cbCtx]

/-- The last separator completes the frame and delivers the payload (O45). -/
theorem exec_lastSeparator {d : Decoder} {s : State} {payload front : List Byte} {b : Byte} {sym : Sym} (ready : Ready d)
    (callback : d.cbEn = true) (le : payload.length ≤ d.cfg.maxPayloadBytes.toNat)
    (frame : front ++ [b] = wireFrame d.cfg payload)
    (dec : s.dec = lastMarkRead (receiving d payload.length front sym) b) :
    exec (feedOf (separator d.cfg)) s = .next { s with
      dec := clearedDecoder d .idle (d.stats.bump .framesDecoded)
      outs := s.outs ++ [.deliver { payload := payload, length := payload.length, ctx := d.cbCtx }] ++ [okNone] } := by
  have size := congrArg List.length frame
  rw [List.length_append, List.length_singleton, wireFrame_length] at size
  have five : 5 ≤ front.length := by omega
  have cap := le.trans (maxPayload_le_of_valid ready.config)
  have ready' : Ready (lastMarkRead (receiving d payload.length front sym) b) :=
    (ready.receiving payload.length front sym).inByte _ _ _ _
  have complete := size.trans (receiving_expectedLen d sym cap five).symm
  have received : front ++ [completedByte (lastMarkRead (receiving d payload.length front sym) b)] = wireFrame d.cfg payload := by
    rw [completedByte_lastMarkRead, frame]
  have delivered := feedDeliversGoodFrame (durationOf d.cfg d.cfg.separatorUnits) s payload
  rw [dec] at delivered
  have delivered := delivered ready'.valid ready'.separatorTimed rfl ready'.accepted rfl (show front.length < 521 by omega)
    (decide_eq_true five) complete le received
  have left : ∀ t, clearedDecoder (lastMarkRead (receiving d payload.length front sym) b) .idle t = clearedDecoder d .idle t :=
    fun t => clearedDecoder_congr rfl rfl rfl rfl
  have enabled : (lastMarkRead (receiving d payload.length front sym) b).cbEn = true := callback
  rw [if_pos enabled, left] at delivered
  exact delivered

/-- The changes of a frame but the gap, on an idle decoder with a callback. -/
theorem execAll_frameChanges {s : State} {payload : List Byte} (ready : Ready s.dec) (idle : s.dec.state = .idle)
    (callback : s.dec.cbEn = true) (le : payload.length ≤ s.dec.cfg.maxPayloadBytes.toNat) :
    execAll ((preambleChanges s.dec.cfg ++ (wireFrame s.dec.cfg payload).flatMap (byteChanges s.dec.cfg)).map feedOf) s
      = .next { s with
        dec := clearedDecoder s.dec .idle (s.dec.stats.bump .framesDecoded)
        outs := s.outs ++ List.replicate (8 * (9 + payload.length) + 1) okNone
          ++ [.deliver { payload := payload, length := payload.length, ctx := s.dec.cbCtx }] ++ [okNone] } := by
  obtain ⟨front, b, frame⟩ : ∃ front b, front ++ [b] = wireFrame s.dec.cfg payload := by
    have notEmpty : wireFrame s.dec.cfg payload ≠ [] := fun empty => by
      have size := wireFrame_length s.dec.cfg payload
      rw [empty, List.length_nil] at size
      omega
    exact ⟨_, _, List.dropLast_append_getLast notEmpty⟩
  obtain ⟨sym, fed⟩ := feedsTo_frame ready idle le frame
  have count : (preambleChanges s.dec.cfg ++ front.flatMap (byteChanges s.dec.cfg) ++ byteChangesBut s.dec.cfg b).length
      = 8 * (9 + payload.length) + 1 := by
    have size := congrArg List.length frame
    have seven : (byteChangesBut s.dec.cfg b).length = 7 := rfl
    rw [List.length_append, List.length_singleton, wireFrame_length] at size
    rw [List.length_append, List.length_append, flatMap_byteChanges_length, preambleChanges_length, seven]
    omega
  have changes : preambleChanges s.dec.cfg ++ (wireFrame s.dec.cfg payload).flatMap (byteChanges s.dec.cfg)
      = preambleChanges s.dec.cfg ++ front.flatMap (byteChanges s.dec.cfg) ++ byteChangesBut s.dec.cfg b
        ++ [separator s.dec.cfg] := by
    rw [← frame, List.flatMap_append, List.flatMap_singleton, byteChanges_eq, ← List.append_assoc, ← List.append_assoc]
  rw [changes, List.map_append, execAll_append_of_next (fed s rfl), count]
  exact execAll_cons_of_next (exec_lastSeparator ready callback le frame rfl) []

/-- Settles O58: `ENC.ENCODE` leaves the preamble, the changes of the frame's bytes and the gap. All but the gap deliver the
payload (`execAll_frameChanges`), after which the gap changes nothing (`feedsTo_gap`). -/
theorem encodeFeedRoundTrip : Obligations.EncodeFeedRoundTrip := by
  unfold Obligations.EncodeFeedRoundTrip
  intro payload s config encValid sameCfg decValid idle callback le
  have fits : payload.length ≤ encodeCap s.enc.cfg := Nat.le_min.2 ⟨le, le.trans (maxPayload_le_of_valid config)⟩
  refine ⟨_, exec_encEncode_of_some (encodePayloadBuffers_eq_wire encValid fits), rfl, ?_⟩
  rw [← sameCfg] at config le ⊢
  have ready : Ready s.dec := ⟨decValid, config⟩
  generalize started : ({ s with enc := _, outs := _ } : State) = t
  have dec : s.dec = t.dec := by rw [← started]
  have out : t.enc.out = preambleChanges s.dec.cfg ++ (wireFrame s.dec.cfg payload).flatMap (byteChanges s.dec.cfg)
      ++ gapChanges s.dec.cfg := by
    rw [← started, changes_eq_wireChanges]
  rw [out]
  rw [dec] at ready idle callback le ⊢
  have delivered := execAll_frameChanges ready idle callback le
  refine ⟨?withGap, ?withoutGap⟩
  case withGap =>
    have cleared : Ready (clearedDecoder t.dec .idle (t.dec.stats.bump .framesDecoded)) := ⟨ready.valid, ready.config⟩
    have gap := feedsTo_gap cleared rfl
    rw [List.map_append, execAll_append_of_next delivered]
    refine (gap _ rfl).trans ?_
    simp [afterFeeds]
  case withoutGap =>
    rw [gapChanges, List.dropLast_concat]
    exact delivered

end Sys2Proof.Proofs
end
